-- ==== Sys2Proof/Word.lean ====
section
/-! DEFINITION. The word types of the model: the 64-bit words that `MRS` and `MSR` move, instruction words, bytes
and register numbers (00_scope.md R9, R10; 30_encoding.md R60, R61). -/

namespace Sys2Proof

/-- A 64-bit value: TRCCONFIGR, a general-purpose register, an address (10_state.md R15, R41, R42). -/
abbrev Word := BitVec 64

/-- A 32-bit instruction word (30_encoding.md R60). -/
abbrev InstrWord := BitVec 32

/-- A byte of an instruction word as stored (20_memory.md R51). -/
abbrev Byte := BitVec 8

/-- The register number `t`, the 5-bit field `Rt` (30_encoding.md R61). -/
abbrev RegNum := BitVec 5

end Sys2Proof
end

