-- ==== Sys2Proof/Config.lean ====
section
/-! DEFINITION. What an implementation fixes (the parameters of 00_scope.md R7, 10_state.md R34, 20_memory.md R50),
the Exception levels, and the free values: constants with no body, which no proof can evaluate. -/

namespace Sys2Proof

/-- An Exception level, `PSTATE.EL` (00_scope.md R8, R13). -/
inductive EL where
  | el0
  | el1
  | el2
  | el3
  deriving DecidableEq, Repr, Inhabited

/-- A level that takes an exception: 60_exceptions.md R84 names EL1, EL2 and EL3 as targets. -/
inductive ExcLevel where
  | el1
  | el2
  | el3
  deriving DecidableEq, Repr, Inhabited

/-- The Exception level a taken exception runs at. -/
def ExcLevel.toEL : ExcLevel → EL
  | .el1 => .el1
  | .el2 => .el2
  | .el3 => .el3

/-- The implementation's parameters: 00_scope.md R7, with `P_ResStored` of 10_state.md R34 and the place of the
External register of 20_memory.md R50. They are a part of State (log 1), so every statement ranges over them, and
no step writes them. A one-bit parameter is a Bool. -/
structure Params where
  /-- `P_FEAT_ETE`: FEAT_ETE is implemented. -/
  featETE : Bool
  /-- `P_VMIDOPT`: TRCIDR2.VMIDOPT. -/
  vmidopt : BitVec 2
  /-- `P_QSUPP`: TRCIDR0.QSUPP. -/
  qsupp : BitVec 2
  /-- `P_RETSTACK`: TRCIDR0.RETSTACK. -/
  retstack : Bool
  /-- `P_TSSIZE`: TRCIDR0.TSSIZE. -/
  tssize : BitVec 5
  /-- `P_VMIDSIZE`: TRCIDR2.VMIDSIZE. -/
  vmidsize : BitVec 5
  /-- `P_CIDSIZE`: TRCIDR2.CIDSIZE. -/
  cidsize : BitVec 5
  /-- `P_TRCCCI`: TRCIDR0.TRCCCI. -/
  trccci : Bool
  /-- `P_TRCBB`: TRCIDR0.TRCBB. -/
  trcbb : Bool
  /-- `P_HaveEL3`: HaveEL(EL3). -/
  haveEL3 : Bool
  /-- `P_EL3PrioSDD`: the IMPLEMENTATION_DEFINED "EL3 trap priority when SDD == '1'". -/
  el3PrioSDD : Bool
  /-- `P_ResStored`: which reserved bits are storage (10_state.md R34). -/
  resStored : Word
  /-- The base of the trace unit's external register frame (20_memory.md R50, D23). -/
  extBase : Nat
  /-- `TRCCONFIGR_EXT_OFFSET` (20_memory.md R50, D23). -/
  extOffset : Nat
  deriving DecidableEq, Repr

/-- The parameter set `FULL` of 95_test_vectors.md: every optional field implemented, every reserved bit hardwired.
What FULL leaves open is fixed here as log 1 and log 19 say. -/
def Params.full : Params where
  featETE := true
  vmidopt := 0b01#2
  qsupp := 0b11#2
  retstack := true
  tssize := 0b01000#5
  vmidsize := 0b00100#5
  cidsize := 0b00100#5
  trccci := true
  trcbb := true
  haveEL3 := true
  el3PrioSDD := false
  resStored := 0#64
  extBase := 0
  extOffset := 0x010

/-- FREE VALUE (log 3): the bits that the `n`th draw supplies to a read of TRCCONFIGR, one for each Unknown cell
(00_scope.md R11 `draw_N`, 10_state.md R36). -/
opaque Config.freeBits : Nat → Word

/-- FREE VALUE (log 11): the word address of the handler that an exception enters; the spec gives no vector
(60_exceptions.md R91, 91_not_in_source.md N5). -/
opaque Config.freeSlot : Nat → BitVec 62

/-- FREE VALUE (log 12): syndrome bits [25:0] of an Undefined exception; 60_exceptions.md R90 gives only the
exception class. -/
opaque Config.freeIss : Nat → BitVec 26

/-- FREE VALUE (log 14): a level's syndrome after a fault taken while halted (60_exceptions.md R90). -/
opaque Config.freeSyndrome : ExcLevel → Nat → BitVec 32

/-- FREE VALUE (log 14): a level's return address after a fault taken while halted (60_exceptions.md R90). -/
opaque Config.freeReturn : ExcLevel → Nat → Word

/-- FREE VALUE (log 14): the Exception level after a fault taken while halted (60_exceptions.md R90). -/
opaque Config.freeLevel : Nat → EL

end Sys2Proof
end

