-- ==== Sys2Proof/Syntax.lean ====
section
/-! DEFINITION. The instructions: one constructor for each row of spec/opcode_table.json. -/

namespace Sys2Proof

/-- The two instructions that reach TRCCONFIGR (40_sysreg_access.md R71, R72). Each has one operand, the register
number `t` of 30_encoding.md R61: unsigned, 0 to 31, unscaled; its type admits no other value. -/
inductive Instr where
  /-- `MRS <Xt>, TRCCONFIGR`: read the register (R71). -/
  | mrsTrcconfigr (t : RegNum)
  /-- `MSR TRCCONFIGR, <Xt>`: write the register (R72). -/
  | msrTrcconfigr (t : RegNum)
  deriving DecidableEq, Repr

/-- The direction of an access (40_sysreg_access.md R70, `kind`). -/
inductive AccessKind where
  | read
  | write
  deriving DecidableEq, Repr

/-- Which access an instruction makes. -/
def Instr.kind : Instr → AccessKind
  | .mrsTrcconfigr _ => .read
  | .msrTrcconfigr _ => .write

/-- The register operand `t` of an instruction. -/
def Instr.reg : Instr → RegNum
  | .mrsTrcconfigr t => t
  | .msrTrcconfigr t => t

end Sys2Proof
end

