-- ==== Sys2Proof/Machine/State.lean ====
section
/-! DEFINITION. The state of the machine as plain data, the reasons a step can stop, and the state at the start of a
run. INVENTORY.md, State, lists every field with the rule that names it. -/

namespace Sys2Proof.Machine

open Sys2Proof

/-- One cell of TRCCONFIGR (10_state.md R15): a known bit, or the source's "architecturally UNKNOWN value". -/
inductive Cell where
  | known (b : Bool)
  | unknown
  deriving DecidableEq, Repr, Inhabited

/-- The inputs of 00_scope.md R8, supplied by the surrounding machine, and the routing bit of 60_exceptions.md R90.
Only a bit of each named register is read, so only that bit is held (00_scope.md R8, D12). -/
structure Inputs where
  /-- `PSTATE.EL`. -/
  el : EL
  /-- `Halted()`. -/
  halted : Bool
  /-- `EDSCR.SDD`. -/
  sdd : Bool
  /-- `CPTR_EL3.TTA`. -/
  ttaEL3 : Bool
  /-- `CPTR_EL2.TTA`. -/
  ttaEL2 : Bool
  /-- `CPACR_EL1.TTA`. -/
  ttaEL1 : Bool
  /-- `EL2Enabled()`. -/
  el2Enabled : Bool
  /-- `SCR_EL3.FGTEn`. -/
  fgtEn : Bool
  /-- `HDFGRTR_EL2.TRC`, read by the check of a read only. -/
  hdfgrtrTrc : Bool
  /-- `HDFGWTR_EL2.TRC`, read by the check of a write only. -/
  hdfgwtrTrc : Bool
  /-- The trace unit is in the Idle state. -/
  idle : Bool
  /-- EL2 is configured to take EL0 exceptions (60_exceptions.md R90; log 13). -/
  el0ToEL2 : Bool
  deriving DecidableEq, Repr

/-- What exception entry writes at the level it is taken to (60_exceptions.md R90, R91; log 10). -/
structure ExcBank where
  /-- Bits [31:0] of the level's syndrome register. -/
  syndrome : BitVec 32
  /-- The preferred return address. -/
  returnAddr : Word
  deriving DecidableEq, Repr

/-- The exception registers of the three levels that take exceptions. -/
structure ExcRegs where
  el1 : ExcBank
  el2 : ExcBank
  el3 : ExcBank
  deriving DecidableEq, Repr

/-- The outcomes of a step of the PE that are not refusals (00_scope.md R12). -/
inductive PEOutcome where
  | done
  | undefined
  /-- `Trap(target_el, code)`; the code of every trap is `0x18` (60_exceptions.md R84). -/
  | trap (target : ExcLevel) (code : BitVec 6)
  deriving DecidableEq, Repr

/-- The Virtual context identifier selected (10_state.md R20, R40). -/
inductive VctxSelect where
  | useVMID
  | usePROCID
  /-- `P_VMIDOPT == 0b11`: the spec gives the selection no meaning (D24). -/
  | noMeaning
  deriving DecidableEq, Repr

/-- The value of an on/off option (10_state.md R40). -/
inductive OptionValue where
  | enabled
  | disabled
  /-- The control field is a reserved bit (D28). -/
  | notControlled
  deriving DecidableEq, Repr

/-- What the register tells the trace unit (10_state.md R40). -/
structure TraceControls where
  vctxSelect : VctxSelect
  qWithCounts : OptionValue
  qWithoutCounts : OptionValue
  returnStack : OptionValue
  globalTimestamp : OptionValue
  vctxTracing : OptionValue
  ctxTracing : OptionValue
  cycleCounting : OptionValue
  branchBroadcast : OptionValue
  deriving DecidableEq, Repr

/-- The shape of an access by the external debugger: where, how wide, and the input `ExtAccessOK` that the
surrounding machine supplies with it (41_external_access.md R79, 20_memory.md R52). -/
structure ExtAccess where
  /-- The address, counted from where the frame's base `Params.extBase` is counted. -/
  addr : Nat
  /-- The width in bits. -/
  bits : Nat
  /-- `ExtAccessOK`. -/
  ok : Bool
  deriving DecidableEq, Repr

/-- One turn of one agent (00_scope.md R6), or of the surrounding machine (log 22). -/
inductive Turn where
  /-- The PE executes the next instruction of its program. -/
  | pe
  /-- The external debugger reads (41_external_access.md R80). -/
  | extRead (a : ExtAccess)
  /-- The external debugger writes (41_external_access.md R81). -/
  | extWrite (a : ExtAccess) (v : BitVec 32)
  /-- The reset source delivers a Trace unit reset (70_reset_and_hazards.md R100). -/
  | traceUnitReset
  /-- The trace unit reads the options (10_state.md R40). -/
  | traceRead
  /-- The surrounding machine supplies new inputs (00_scope.md R8). -/
  | inputs (i : Inputs)
  /-- An instruction outside the spec changes `X[t]` (70_reset_and_hazards.md R109). -/
  | setX (t : RegNum) (v : Word)
  /-- A program is loaded for the PE, its first instruction at `pc` (log 8). -/
  | load (pc : Word) (ws : List InstrWord)
  deriving DecidableEq, Repr

/-- The whole machine. -/
structure State where
  /-- The implementation's parameters (00_scope.md R7); no step writes them. -/
  params : Params
  /-- The inputs (00_scope.md R8). -/
  inputs : Inputs
  /-- TRCCONFIGR, bit `i` at index `i` (10_state.md R15). -/
  cells : Vector Cell 64
  /-- X0 to X30 (10_state.md R41). -/
  x : Vector Word 31
  /-- The address of the PE's next instruction (10_state.md R42; log 7). -/
  pc : Word
  /-- The exception registers (60_exceptions.md R90, R91). -/
  exc : ExcRegs
  /-- The instruction words the PE has still to execute (10_state.md R42, D14). -/
  program : List InstrWord
  /-- The outcome of the PE's last step (00_scope.md R12). -/
  outcome : Option PEOutcome
  /-- What the last external read returned (41_external_access.md R80). -/
  extData : Option (BitVec 32)
  /-- What the trace unit last read (10_state.md R40). -/
  controls : Option TraceControls
  /-- The coming turns, in the order of the interleaving (20_memory.md R57); when none is listed the PE moves. -/
  turns : List Turn
  /-- The number of the next free value (log 3); the model's own field. -/
  draws : Nat
  deriving DecidableEq, Repr

/-- Why the machine stops. -/
inductive Fault where
  /-- Raised by the fetch: the PE has no instruction left, because its program ran out or a fault ended it
  (10_state.md R42). Safe: nothing is claimed of what follows. -/
  | programEnded
  deriving DecidableEq, Repr

/-- Why a step is given no meaning. -/
inductive Refusal where
  /-- Raised by `exec` for an instruction with no meaning yet. Safe. -/
  | notModelled (mnemonic : String)
  /-- Raised by the fetch: the word is neither of the two instructions (30_encoding.md R64). Safe. -/
  | notInScope (w : InstrWord)
  /-- Raised by `MSR` and by an external write: `Refused(write_not_idle)` (40_sysreg_access.md R73,
  41_external_access.md R82, D7). Safe: the spec lists no permitted behaviour. -/
  | writeNotIdle
  /-- Raised by external accesses: `Refused(ext_access)` (41_external_access.md R79, D22, D27). Safe. -/
  | extAccess
  /-- Raised by external accesses: `Refused(ext_shape)` (20_memory.md R52, D16). Safe. -/
  | extShape
  /-- Raised by the trace unit's read while the register is not Legal (10_state.md R38, R40, D9). Safe. -/
  | controlsUndefined
  /-- Raised by the trace unit's read when FEAT_ETE is not implemented: there is no register (10_state.md R15). Safe. -/
  | registerAbsent
  /-- Raised by the turn `inputs`: the level EL3 on an implementation without EL3 (00_scope.md R8). Safe. -/
  | inconsistentInputs
  /-- Raised by the turn `load`: an instruction address that is not 4-byte aligned (20_memory.md R52). Safe. -/
  | misalignedProgram
  deriving DecidableEq, Repr

/-- The inputs at the start of a run, which the spec leaves to the surrounding machine (70_reset_and_hazards.md R102):
the highest Exception level, nothing halted or trapped, the trace unit Idle (log 6). -/
def Inputs.start : Inputs where
  el := .el3
  halted := false
  sdd := false
  ttaEL3 := false
  ttaEL2 := false
  ttaEL1 := false
  el2Enabled := false
  fgtEn := false
  hdfgrtrTrc := false
  hdfgwtrTrc := false
  idle := true
  el0ToEL2 := false

/-- The exception registers of a level before any exception (log 15). -/
def ExcBank.zero : ExcBank := ⟨0#32, 0#64⟩

/-- The start of a run with given parameters and inputs: every cell Unknown (70_reset_and_hazards.md R102), no program
(log 8), no turn; the registers the spec gives no value hold 0 (log 5, 7, 15). -/
def State.initial (p : Params) (i : Inputs) : State where
  params := p
  inputs := i
  cells := Vector.replicate 64 .unknown
  x := Vector.replicate 31 0#64
  pc := 0#64
  exc := ⟨.zero, .zero, .zero⟩
  program := []
  outcome := none
  extData := none
  controls := none
  turns := []
  draws := 0

/-- The machine right after reset: the start of a run of the parameter set `FULL` (log 1, 6). -/
def State.reset : State := State.initial .full .start

end Sys2Proof.Machine
end

