-- ==== Sys2Proof/Machine/Operands.lean ====
section
/-! DEFINITION. The one operand form: the general-purpose register `X[t]` (10_state.md R41, 30_encoding.md R61). -/

namespace Sys2Proof.Machine

open Sys2Proof

/-- `X[t]`: X0 to X30, and number 31 is the zero register, which reads as 0 (10_state.md R41, D13). -/
def State.readX (s : State) (t : RegNum) : Word :=
  if h : t.toNat < 31 then s.x[t.toNat] else 0#64

/-- `X[t] <- v`: a write to number 31 is discarded (10_state.md R41, D13). -/
def State.writeX (s : State) (t : RegNum) (v : Word) : State :=
  { s with x := if h : t.toNat < 31 then s.x.set t.toNat v h else s.x }

end Sys2Proof.Machine
end

