-- ==== Sys2Proof/Decode.lean ====
section
/-! DEFINITION. Decoding, total on every word and on every list of bytes, rejecting by name; then the encoder, put
together from the field layout of 30_encoding.md R60 and the tuple of R62 and R63. -/

namespace Sys2Proof

/-- Why a decode gives no instruction. -/
inductive DecodeError where
  /-- 30_encoding.md R64 `NotInScope`: the word is neither of the two instructions. -/
  | notInScope (w : InstrWord)
  /-- Fewer than the four bytes of an instruction word (30_encoding.md R60, one length). -/
  | truncated
  deriving DecidableEq, Repr

/-- The mask of both rows: every bit but `Rt` (30_encoding.md R62, R63). -/
def matchMask : InstrWord := 0xFFFFFFE0#32

/-- The match value of `MRS <Xt>, TRCCONFIGR` (30_encoding.md R62). -/
def mrsMatch : InstrWord := 0xD5310400#32

/-- The match value of `MSR TRCCONFIGR, <Xt>` (30_encoding.md R63). -/
def msrMatch : InstrWord := 0xD5110400#32

/-- The field `Rt`, bits [4:0] (30_encoding.md R60). -/
def fieldRt (w : InstrWord) : RegNum := w.extractLsb' 0 5

/-- The decoder of 30_encoding.md R64. -/
def decodeWord (w : InstrWord) : Except DecodeError Instr :=
  if w &&& matchMask = mrsMatch then .ok (.mrsTrcconfigr (fieldRt w))
  else if w &&& matchMask = msrMatch then .ok (.msrTrcconfigr (fieldRt w))
  else .error (.notInScope w)

/-- The word that four stored bytes make, least significant byte at the lowest address (20_memory.md R51). -/
def wordOfBytes (b0 b1 b2 b3 : Byte) : InstrWord := b3 ++ b2 ++ b1 ++ b0

/-- Decode the instruction at the head of a list of bytes, and give the bytes that follow it. -/
def decodeBytes : List Byte → Except DecodeError (Instr × List Byte)
  | b0 :: b1 :: b2 :: b3 :: rest =>
    match decodeWord (wordOfBytes b0 b1 b2 b3) with
    | .ok i => .ok (i, rest)
    | .error e => .error e
  | _ => .error .truncated

/-- The System register tuple `(op0, op1, CRn, CRm, op2)` of 20_memory.md R48. -/
structure SysRegTuple where
  op0 : BitVec 2
  op1 : BitVec 3
  crn : BitVec 4
  crm : BitVec 4
  op2 : BitVec 3
  deriving DecidableEq, Repr

/-- The tuple of TRCCONFIGR, the same for the read and the write (30_encoding.md R62, R63). -/
def trcconfigrTuple : SysRegTuple where
  op0 := 0b10#2
  op1 := 0b001#3
  crn := 0b0000#4
  crm := 0b0100#4
  op2 := 0b000#3

/-- The System register move format of 30_encoding.md R60: fixed bits [31:22], `L` [21], `op0` [20:19], `op1` [18:16],
`CRn` [15:12], `CRm` [11:8], `op2` [7:5], `Rt` [4:0]. -/
def sysMoveWord (l : BitVec 1) (r : SysRegTuple) (t : RegNum) : InstrWord :=
  0b1101010100#10 ++ l ++ r.op0 ++ r.op1 ++ r.crn ++ r.crm ++ r.op2 ++ t

/-- The direction bit `L` of the format: 1 selects `MRS`, 0 selects `MSR` (30_encoding.md R60). -/
def AccessKind.dirBit : AccessKind → BitVec 1
  | .read => 1#1
  | .write => 0#1

/-- The word of an instruction (30_encoding.md R60, R62, R63). -/
def encode (i : Instr) : InstrWord := sysMoveWord i.kind.dirBit trcconfigrTuple i.reg

/-- The four bytes of a word as stored, lowest address first (20_memory.md R51). -/
def wordBytes (w : InstrWord) : List Byte :=
  [w.extractLsb' 0 8, w.extractLsb' 8 8, w.extractLsb' 16 8, w.extractLsb' 24 8]

/-- The instruction word that `spec/opcode_table.json` numbers as `w`, `nbits` of its bits given and the rest 0. -/
def tableWord (nbits w : Nat) : InstrWord := BitVec.ofNat 32 (w % 2 ^ nbits)

/-- What the decoder reads from an instruction given as a table word: the word is laid out in bytes and decoded. -/
def decodeTableWord (nbits w : Nat) : Option Instr :=
  match decodeBytes (wordBytes (tableWord nbits w)) with
  | .ok (i, _) => some i
  | .error _ => none

end Sys2Proof
end

