-- ==== Sys2Proof/Machine/Fields.lean ====
section
/-! DEFINITION. TRCCONFIGR as the spec lays it out: the masks (10_state.md R35), the read and write functions (R36, R37),
the Trace unit reset of the cells (70_reset_and_hazards.md R100), `Legal` (R38) and `TraceControls` (R40). -/

namespace Sys2Proof.Machine

open Sys2Proof

/-- A mask that is present under a condition. -/
def maskIf (b : Bool) (m : Word) : Word := if b then m else 0#64

/-- `ImplMask`: the bits of the implemented fields (10_state.md R35). -/
def implMask (p : Params) : Word :=
  maskIf (p.vmidopt == 0b01#2) 0x8000#64 |||
  maskIf (p.qsupp != 0b00#2) 0x6000#64 |||
  maskIf p.retstack 0x1000#64 |||
  maskIf (p.tssize != 0b00000#5) 0x0800#64 |||
  maskIf (p.vmidsize != 0b00000#5) 0x0080#64 |||
  maskIf (p.cidsize != 0b00000#5) 0x0040#64 |||
  maskIf p.trccci 0x0010#64 |||
  maskIf p.trcbb 0x0008#64

/-- `Res1Mask`: the RES1 bits (10_state.md R35). -/
def res1Mask (p : Params) : Word := 0x0001#64 ||| maskIf (p.vmidopt == 0b10#2) 0x8000#64

/-- `ResMask`: every reserved bit (10_state.md R35). -/
def resMask (p : Params) : Word := ~~~(implMask p)

/-- `Res0Mask`: the RES0 bits (10_state.md R35). -/
def res0Mask (p : Params) : Word := resMask p &&& ~~~(res1Mask p)

/-- `StoreMask`: the cells that exist as storage (10_state.md R35). -/
def storeMask (p : Params) : Word := implMask p ||| (resMask p &&& p.resStored)

/-- `P_ResStored & ImplMask == 0` (10_state.md R34). -/
def resStoredDisjoint (p : Params) : Bool := p.resStored &&& implMask p == 0#64

/-- `QEPermitted(q)` (10_state.md R37, the value tables of R21). -/
def qePermitted (p : Params) (q : BitVec 2) : Bool :=
  q == 0b00#2 ||
  (q == 0b01#2 && (p.qsupp == 0b01#2 || p.qsupp == 0b11#2)) ||
  (q == 0b11#2 && (p.qsupp == 0b10#2 || p.qsupp == 0b11#2))

/-- The bit a cell reads as, `draw` supplying an Unknown one (10_state.md R36). -/
def cellBit (draw : Bool) : Cell → Bool
  | .known b => b
  | .unknown => draw

/-- `ReadValue(S)` (10_state.md R36); `draw` is the free value of this read. -/
def readValue (p : Params) (cells : Vector Cell 64) (draw : Word) : Word :=
  BitVec.ofFnLE fun i : Fin 64 =>
    if (storeMask p)[i] then cellBit draw[i] cells[i] else (res1Mask p)[i]

/-- Store `v` into the storage cells under `lanes` (10_state.md R37, first assignment). -/
def storeCells (p : Params) (lanes : Word) (cells : Vector Cell 64) (v : Word) : Vector Cell 64 :=
  Vector.ofFn fun i : Fin 64 =>
    if (storeMask p)[i] && lanes[i] then .known v[i] else cells[i]

/-- A written QE value that is reserved for the implementation (10_state.md R23, R37). -/
def qeReserved (p : Params) (v : Word) : Bool :=
  p.qsupp != 0b00#2 && !qePermitted p (v.extractLsb' 13 2)

/-- Both QE cells become Unknown after a write of a reserved value (10_state.md R37, second assignment; D8). -/
def spoilQE (bad : Bool) (cells : Vector Cell 64) : Vector Cell 64 :=
  if bad then (cells.set 14 .unknown).set 13 .unknown else cells

/-- `WriteValue(S, v)` (10_state.md R37). -/
def writeValue (p : Params) (cells : Vector Cell 64) (v : Word) : Vector Cell 64 :=
  spoilQE (qeReserved p v) (storeCells p (BitVec.allOnes 64) cells v)

/-- `WriteValue32(S, v)`: the same on cells [31:0] only (41_external_access.md R81, R83). -/
def writeValue32 (p : Params) (cells : Vector Cell 64) (v : BitVec 32) : Vector Cell 64 :=
  spoilQE (qeReserved p (v.setWidth 64)) (storeCells p 0x00000000FFFFFFFF#64 cells (v.setWidth 64))

/-- The cells after a Trace unit reset: every storage cell Unknown (70_reset_and_hazards.md R100, 10_state.md R45). -/
def resetCells (p : Params) (cells : Vector Cell 64) : Vector Cell 64 :=
  Vector.ofFn fun i : Fin 64 => if (storeMask p)[i] then .unknown else cells[i]

/-- The bit a field's option is read from: the cell of an implemented field, the architected value of a reserved bit
(10_state.md R38 clause (c), R40). -/
def optionBit (p : Params) (cells : Vector Cell 64) (i : Fin 64) : Bool :=
  if (implMask p)[i] then cells[i] == .known true else (res1Mask p)[i]

/-- QE, bits [14:13], as `optionBit` reads them (10_state.md R21). -/
def qeValue (p : Params) (cells : Vector Cell 64) : BitVec 2 :=
  BitVec.ofBool (optionBit p cells 14) ++ BitVec.ofBool (optionBit p cells 13)

/-- `Legal` clause (a): every implemented cell is Known (10_state.md R38, 70_reset_and_hazards.md R103). -/
def legalProgrammed (p : Params) (cells : Vector Cell 64) : Bool :=
  decide (∀ i : Fin 64, (implMask p)[i] = true → cells[i] ≠ .unknown)

/-- `Legal` clause (b): QE holds a permitted value (10_state.md R38). -/
def legalQE (p : Params) (cells : Vector Cell 64) : Bool :=
  p.qsupp == 0b00#2 || qePermitted p (qeValue p cells)

/-- `Legal` clause (c): "TRCCONFIGR.QE must be set to 0b00 if TRCCONFIGR.BB is not 0b0." (10_state.md R38). -/
def legalBB (p : Params) (cells : Vector Cell 64) : Bool :=
  !optionBit p cells 3 || qeValue p cells == 0b00#2

/-- `Legal` clause (d): every storage reserved cell holds its architected value (10_state.md R38). -/
def legalReserved (p : Params) (cells : Vector Cell 64) : Bool :=
  decide (∀ i : Fin 64, (resMask p &&& p.resStored)[i] = true → cells[i] = .known (res1Mask p)[i])

/-- `Legal(S)` (10_state.md R38). -/
def legal (p : Params) (cells : Vector Cell 64) : Bool :=
  legalProgrammed p cells && legalQE p cells && legalBB p cells && legalReserved p cells

/-- An option under its field: `NotControlled` when the field is not implemented (10_state.md R40). -/
def optionOf (implemented on : Bool) : OptionValue :=
  if implemented then (if on then .enabled else .disabled) else .notControlled

/-- The Virtual context identifier selection (10_state.md R20; the `vctx_select` row of R40). -/
def vctxSelect (p : Params) (cells : Vector Cell 64) : VctxSelect :=
  if p.vmidopt = 0b00#2 then .useVMID
  else if p.vmidopt = 0b10#2 then .usePROCID
  else if p.vmidopt = 0b01#2 then (if optionBit p cells 15 then .usePROCID else .useVMID)
  else .noMeaning

/-- The options a Legal register stands for (10_state.md R40, R22, R24 to R31). -/
def controlsOf (p : Params) (cells : Vector Cell 64) : TraceControls where
  vctxSelect := vctxSelect p cells
  qWithCounts := optionOf (p.qsupp != 0b00#2) (qeValue p cells == 0b01#2 || qeValue p cells == 0b11#2)
  qWithoutCounts := optionOf (p.qsupp != 0b00#2) (qeValue p cells == 0b11#2)
  returnStack := optionOf p.retstack (optionBit p cells 12)
  globalTimestamp := optionOf (p.tssize != 0b00000#5) (optionBit p cells 11)
  vctxTracing := optionOf (p.vmidsize != 0b00000#5) (optionBit p cells 7)
  ctxTracing := optionOf (p.cidsize != 0b00000#5) (optionBit p cells 6)
  cycleCounting := optionOf p.trccci (optionBit p cells 4)
  branchBroadcast := optionOf p.trcbb (optionBit p cells 3)

/-- `TraceControls(S)`, defined only when `Legal(S)` (10_state.md R40). -/
def traceControls (p : Params) (cells : Vector Cell 64) : Option TraceControls :=
  if legal p cells then some (controlsOf p cells) else none

end Sys2Proof.Machine
end

