-- ==== Sys2Proof/Machine/Flags.lean ====
section
/-! DEFINITION. The processor state that decides an access. There is no flag and no condition code in scope: neither
instruction writes one, and the only field of PSTATE that is read is PSTATE.EL (10_state.md R43). -/

namespace Sys2Proof.Machine

open Sys2Proof

/-- The consistency of 00_scope.md R8: `EL == EL3` only when `P_HaveEL3`. -/
def inputsConsistent (p : Params) (i : Inputs) : Bool := i.el != .el3 || p.haveEL3

/-- The inputs with `PSTATE.EL` replaced, as exception entry does (60_exceptions.md R90, R91; log 10). -/
def withLevel (i : Inputs) (el : EL) : Inputs := { i with el := el }

/-- The level an Undefined exception is taken to: from EL0 to EL1, or to EL2 when EL2 is enabled and configured to
take EL0 exceptions; from any other level to that level (60_exceptions.md R90). -/
def undefinedTarget (i : Inputs) : ExcLevel :=
  match i.el with
  | .el0 => if i.el2Enabled && i.el0ToEL2 then .el2 else .el1
  | .el1 => .el1
  | .el2 => .el2
  | .el3 => .el3

end Sys2Proof.Machine
end

