-- ==== Sys2Proof/Machine/Ops.lean ====
section
/-! DEFINITION. The named operations on the state: reading and writing TRCCONFIGR, finishing an instruction, and taking
an exception. There is no return from an exception: the spec names none (60_exceptions.md R93). -/

namespace Sys2Proof.Machine

open Sys2Proof

/-- The value this read of TRCCONFIGR returns (10_state.md R36), its Unknown cells from the next free value. -/
def State.trcValue (s : State) : Word := readValue s.params s.cells (Config.freeBits s.draws)

/-- A free value has been used; the next is another (00_scope.md R11, "chosen anew at each use"). -/
def State.drawn (s : State) : State := { s with draws := s.draws + 1 }

/-- TRCCONFIGR replaced. -/
def State.setCells (s : State) (cells : Vector Cell 64) : State := { s with cells := cells }

/-- Outcome `Done`: the next instruction is the one at `pc + 4`, modulo 2^64 (00_scope.md R12, 10_state.md R42). -/
def State.finish (s : State) : State := { s with pc := s.pc + 4#64, outcome := some .done }

/-- The exception class of a trapped `MSR`, `MRS` or System instruction, the second argument of every trap
(60_exceptions.md R84, R91). -/
def trapCode : BitVec 6 := 0x18#6

/-- The syndrome of a system access trap (60_exceptions.md R91): EC [31:26], IL [25] = 1, [24:22] = 0, Op0 [21:20],
Op2 [19:17], Op1 [16:14], CRn [13:10], Rt [9:5], CRm [4:1], Direction [0]. -/
def trapSyndrome (kind : AccessKind) (t : RegNum) : BitVec 32 :=
  trapCode ++ 1#1 ++ 0b000#3 ++ trcconfigrTuple.op0 ++ trcconfigrTuple.op2 ++ trcconfigrTuple.op1 ++
    trcconfigrTuple.crn ++ t ++ trcconfigrTuple.crm ++ kind.dirBit

/-- The syndrome of an Undefined exception: exception class 0x00 (60_exceptions.md R90), the rest free (log 12). -/
def undefinedSyndrome (n : Nat) : BitVec 32 := 0x00#6 ++ Config.freeIss n

/-- The address of a handler: free (log 11), an instruction address and so 4-byte aligned (20_memory.md R52). -/
def handlerAddr (n : Nat) : Word := Config.freeSlot n ++ 0b00#2

/-- The exception registers of one level. -/
def bankOf (e : ExcRegs) : ExcLevel → ExcBank
  | .el1 => e.el1
  | .el2 => e.el2
  | .el3 => e.el3

/-- The exception registers with those of one level replaced. -/
def setBank (e : ExcRegs) (l : ExcLevel) (b : ExcBank) : ExcRegs :=
  match l with
  | .el1 => { e with el1 := b }
  | .el2 => { e with el2 := b }
  | .el3 => { e with el3 := b }

/-- Take an exception to a level (60_exceptions.md R90, R91): the level's syndrome and preferred return address (the
address of the instruction itself) are written, the PE runs at the level, at a handler whose address the spec does
not give (log 11). TRCCONFIGR and X are not written (R92), and the PE's program ends (10_state.md R42; log 9). -/
def State.enter (s : State) (o : PEOutcome) (l : ExcLevel) (syndrome : BitVec 32) : State :=
  { s with
    exc := setBank s.exc l ⟨syndrome, s.pc⟩
    inputs := withLevel s.inputs l.toEL
    pc := handlerAddr s.draws
    program := []
    outcome := some o
    draws := s.draws + 1 }

/-- The level after a fault taken while halted: free (log 14), but EL3 only where EL3 exists (00_scope.md R8). -/
def haltedLevel (p : Params) (i : Inputs) (n : Nat) : EL :=
  if Config.freeLevel n = .el3 && !p.haveEL3 then i.el else Config.freeLevel n

/-- The exception registers of a level after a fault taken while halted: free (log 14). -/
def haltedBank (l : ExcLevel) (n : Nat) : ExcBank := ⟨Config.freeSyndrome l n, Config.freeReturn l n⟩

/-- A fault while halted: the outcome is reported, TRCCONFIGR and X are not written (60_exceptions.md R92) and the
program ends; nothing else may be assumed of the entry (60_exceptions.md R90, 91_not_in_source.md N34; log 14). -/
def State.enterHalted (s : State) (o : PEOutcome) : State :=
  { s with
    exc := ⟨haltedBank .el1 s.draws, haltedBank .el2 s.draws, haltedBank .el3 s.draws⟩
    inputs := withLevel s.inputs (haltedLevel s.params s.inputs s.draws)
    pc := handlerAddr s.draws
    program := []
    outcome := some o
    draws := s.draws + 1 }

/-- Outcome `Undefined` (00_scope.md R12, 60_exceptions.md R90). -/
def State.takeUndefined (s : State) : State :=
  if s.inputs.halted then s.enterHalted .undefined
  else s.enter .undefined (undefinedTarget s.inputs) (undefinedSyndrome s.draws)

/-- Outcome `Trap(l, 0x18)` (00_scope.md R12, 60_exceptions.md R91) of an access to the register operand `t`. -/
def State.takeTrap (s : State) (kind : AccessKind) (t : RegNum) (l : ExcLevel) : State :=
  if s.inputs.halted then s.enterHalted (.trap l trapCode)
  else s.enter (.trap l trapCode) l (trapSyndrome kind t)

end Sys2Proof.Machine
end

