-- ==== Sys2Proof/Machine/Agents.lean ====
section
/-! DEFINITION. The steps of the agents other than the PE: the external debugger (41_external_access.md R79 to R83), the
reset source (70_reset_and_hazards.md R100), the trace unit as a reader (10_state.md R40), and the turns of the
surrounding machine (log 22). -/

namespace Sys2Proof.Machine

open Sys2Proof

/-- The address of the External register: the frame's base and `TRCCONFIGR_EXT_OFFSET` (20_memory.md R50). -/
def extAddress (p : Params) : Nat := p.extBase + p.extOffset

/-- The one admitted shape: 32 bits at exactly the External register's address (20_memory.md R52). DESIGN CHOICE (log 19):
that address need not be a multiple of 4. 20_memory.md R51 and D16 call the admitted access aligned, and the spec gives
the open base and offset no alignment. -/
def extShapeOk (p : Params) (a : ExtAccess) : Bool := a.addr == extAddress p && a.bits == 32

/-- Why an external access is refused, if it is: `ext_access` first (41_external_access.md R79), then `ext_shape`
(20_memory.md R52). DESIGN CHOICE (log 19): the spec does not rank the two. -/
def extRefusal (p : Params) (a : ExtAccess) : Option Refusal :=
  if !p.featETE || !a.ok then some .extAccess
  else if !extShapeOk p a then some .extShape
  else none

/-- `ExtRead32` (41_external_access.md R80): bits [31:0] of the value read are returned to the debugger. -/
def State.extRead (s : State) (a : ExtAccess) : Host.Outcome State Fault Refusal :=
  match extRefusal s.params a with
  | some r => .refused r
  | none => .next { s.drawn with extData := some (s.trcValue.setWidth 32) }

/-- `ExtWrite32` (41_external_access.md R81): cells [31:0] are written, while the trace unit is Idle (R82).
DESIGN CHOICE (log 19): an ill-shaped write while not Idle is refused as `ext_shape`; 20_memory.md R52 and R82 both
refuse it and the spec does not rank them. -/
def State.extWrite (s : State) (a : ExtAccess) (v : BitVec 32) : Host.Outcome State Fault Refusal :=
  match extRefusal s.params a with
  | some r => .refused r
  | none =>
    if s.inputs.idle then .next (s.setCells (writeValue32 s.params s.cells v))
    else .refused .writeNotIdle

/-- `TraceUnitReset()` (70_reset_and_hazards.md R100). -/
def State.traceUnitReset (s : State) : State := s.setCells (resetCells s.params s.cells)

/-- The trace unit reads `TraceControls(S)`, which has a meaning only when the register is present and Legal
(10_state.md R15, R38, R40). -/
def State.traceRead (s : State) : Host.Outcome State Fault Refusal :=
  if !s.params.featETE then .refused .registerAbsent
  else match traceControls s.params s.cells with
    | some c => .next { s with controls := some c }
    | none => .refused .controlsUndefined

/-- The surrounding machine supplies new inputs (00_scope.md R8). -/
def State.supply (s : State) (i : Inputs) : Host.Outcome State Fault Refusal :=
  if inputsConsistent s.params i then .next { s with inputs := i } else .refused .inconsistentInputs

/-- A program is loaded for the PE, its first instruction at `pc` (log 8). -/
def State.load (s : State) (pc : Word) (ws : List InstrWord) : Host.Outcome State Fault Refusal :=
  if pc.extractLsb' 0 2 = 0b00#2 then .next { s with pc := pc, program := ws } else .refused .misalignedProgram

end Sys2Proof.Machine
end

