-- ==== Sys2Proof/Machine/Access.lean ====
section
/-! DEFINITION. The access check that `MRS` and `MSR` share (40_sysreg_access.md R70, R74). -/

namespace Sys2Proof.Machine

open Sys2Proof

/-- What the access check answers. -/
inductive Verdict where
  | allow
  | undefined
  | trap (target : ExcLevel)
  deriving DecidableEq, Repr

/-- The fine-grained trap bit for the direction: `HDFGRTR_EL2.TRC` or `HDFGWTR_EL2.TRC` (R70, `FGT`). -/
def fineTrap (kind : AccessKind) (i : Inputs) : Bool :=
  match kind with
  | .read => i.hdfgrtrTrc
  | .write => i.hdfgwtrTrc

/-- `AccessCheck(kind)` (40_sysreg_access.md R70), the tests in the order written; the letters are R70's points. -/
def accessCheck (kind : AccessKind) (p : Params) (i : Inputs) : Verdict :=
  match i.el with
  | .el0 => .undefined                                                                               -- (a)
  | .el1 =>
    if i.halted && p.haveEL3 && i.sdd && p.el3PrioSDD && i.ttaEL3 then .undefined                    -- (b)
    else if i.ttaEL1 then .trap .el1                                                                 -- (c)
    else if i.el2Enabled && i.ttaEL2 then .trap .el2                                                 -- (d)
    else if i.el2Enabled && (!p.haveEL3 || i.fgtEn) && fineTrap kind i then .trap .el2               -- (e)
    else if p.haveEL3 && i.ttaEL3 then (if i.halted && i.sdd then .undefined else .trap .el3)        -- (f), (g)
    else .allow                                                                                      -- (h)
  | .el2 =>
    if i.halted && p.haveEL3 && i.sdd && p.el3PrioSDD && i.ttaEL3 then .undefined                    -- (i)
    else if i.ttaEL2 then .trap .el2                                                                 -- (j)
    else if p.haveEL3 && i.ttaEL3 then (if i.halted && i.sdd then .undefined else .trap .el3)        -- (k), (l)
    else .allow                                                                                      -- (m)
  | .el3 => if i.ttaEL3 then .trap .el3 else .allow                                                  -- (n), (o)

/-- What decides an access by an instruction: Undefined when FEAT_ETE is not implemented, whatever the access check
would say (40_sysreg_access.md R74), else the access check. -/
def State.verdict (s : State) (kind : AccessKind) : Verdict :=
  if s.params.featETE then accessCheck kind s.params s.inputs else .undefined

end Sys2Proof.Machine
end

