-- ==== Sys2Proof/Machine/SysReg.lean ====
section
/-! DEFINITION. The meanings of the one instruction family: the System register moves that name TRCCONFIGR
(40_sysreg_access.md R71, R72). -/

namespace Sys2Proof.Machine

open Sys2Proof

/-- `MRS <Xt>, TRCCONFIGR` (40_sysreg_access.md R71): on `Allow`, all 64 bits of the value read are written to `X[t]`. -/
def execMrsTrcconfigr (t : RegNum) (s : State) : Host.Outcome State Fault Refusal :=
  match s.verdict .read with
  | .undefined => .next s.takeUndefined
  | .trap l => .next (s.takeTrap .read t l)
  | .allow => .next (s.drawn.writeX t s.trcValue).finish

/-- `MSR TRCCONFIGR, <Xt>` (40_sysreg_access.md R72): on `Allow`, a write while the trace unit is not Idle is refused
(R73), else `X[t]` is written to the register. -/
def execMsrTrcconfigr (t : RegNum) (s : State) : Host.Outcome State Fault Refusal :=
  match s.verdict .write with
  | .undefined => .next s.takeUndefined
  | .trap l => .next (s.takeTrap .write t l)
  | .allow =>
    if s.inputs.idle then .next (s.setCells (writeValue s.params s.cells (s.readX t))).finish
    else .refused .writeNotIdle

end Sys2Proof.Machine
end

