-- ==== Sys2Proof/Machine/Dispatch.lean ====
section
/-! DEFINITION. The meaning of every instruction: one arm per constructor, each one direct call. -/

namespace Sys2Proof.Machine

open Sys2Proof

def exec (i : Instr) (s : State) : Host.Outcome State Fault Refusal :=
  match i with
  | .mrsTrcconfigr t => Sys2Proof.Machine.execMrsTrcconfigr t s
  | .msrTrcconfigr t => Sys2Proof.Machine.execMsrTrcconfigr t s

end Sys2Proof.Machine
end

