-- ==== Sys2Proof/Machine/Fetch.lean ====
section
/-! DEFINITION. The PE's next instruction: the head of its program, decoded (10_state.md R42, 30_encoding.md R64). -/

namespace Sys2Proof.Machine

open Sys2Proof

/-- What the fetch finds. -/
inductive Fetched where
  /-- An instruction, and the words that follow it. -/
  | instr (i : Instr) (rest : List InstrWord)
  /-- No instruction is left. -/
  | ended
  /-- The head of the program is neither of the two instructions. -/
  | notInScope (w : InstrWord)
  deriving DecidableEq, Repr

/-- Decode the head of a program. -/
def fetch (program : List InstrWord) : Fetched :=
  match program with
  | [] => .ended
  | w :: rest =>
    match decodeWord w with
    | .ok i => .instr i rest
    | .error _ => .notInScope w

end Sys2Proof.Machine
end

