-- ==== Sys2Proof/Machine/Step.lean ====
section
/-! DEFINITION. One step of the machine: the next turn is taken (20_memory.md R57), the PE moving when none is listed. -/

namespace Sys2Proof.Machine

open Sys2Proof

/-- A step of the PE: the head of its program is taken and executed (10_state.md R42). -/
def peStep (s : State) : Host.Outcome State Fault Refusal :=
  match fetch s.program with
  | .instr i rest => exec i { s with program := rest }
  | .ended => .fault .programEnded
  | .notInScope w => .refused (.notInScope w)

/-- The agent of a turn moves. -/
def runTurn (u : Turn) (s : State) : Host.Outcome State Fault Refusal :=
  match u with
  | .pe => peStep s
  | .extRead a => s.extRead a
  | .extWrite a v => s.extWrite a v
  | .traceUnitReset => .next s.traceUnitReset
  | .traceRead => s.traceRead
  | .inputs i => s.supply i
  | .setX t v => .next (s.writeX t v)
  | .load pc ws => s.load pc ws

/-- One step: the first listed turn is taken off the list and its agent moves; with none listed the PE moves. -/
def step (s : State) : Host.Outcome State Fault Refusal :=
  match s.turns with
  | [] => peStep s
  | u :: us => runTurn u { s with turns := us }

/-- The state with an instruction, given as a table word, put at the head of the PE's program, and the PE's turn put
first, so that the next step runs it (log 8). -/
def State.withFetchWord (s : State) (nbits w : Nat) : State :=
  { s with program := tableWord nbits w :: s.program, turns := .pe :: s.turns }

end Sys2Proof.Machine
end

