-- ==== Sys2Proof/WellFormed.lean ====
section
/-! DEFINITION. Well-formedness: of instructions (30_encoding.md R61), of the parameters (10_state.md R34) and of the
inputs (00_scope.md R8). -/

namespace Sys2Proof

open Sys2Proof.Machine

/-- An instruction is well formed when its register number is at most 31 (30_encoding.md R61, R65: all 32 values are
accepted). The type of the operand already says so: there is no ill-formed instruction. -/
def Instr.wellFormed (i : Instr) : Bool := i.reg.toNat ≤ 31

/-- Parameters are well formed when `P_ResStored & ImplMask == 0` (10_state.md R34). DESIGN CHOICE (log 19): nothing is
asked of `extBase` and `extOffset`, to which the spec gives no alignment. -/
def Params.wellFormed (p : Params) : Bool := resStoredDisjoint p

/-- Inputs are well formed for an implementation when `EL == EL3` only where EL3 exists (00_scope.md R8). -/
def Machine.Inputs.wellFormed (p : Params) (i : Inputs) : Bool := inputsConsistent p i

end Sys2Proof
end

