-- ==== Sys2Proof/Safety.lean ====
section
/-! DEFINITION. The terms claims are stated in: how an instruction ends (00_scope.md R12), the points of the access check
as conditions (40_sysreg_access.md R70), and the invariant of the machine. -/

namespace Sys2Proof.Machine

open Sys2Proof

/-- The instruction ends with an outcome of 00_scope.md R12 that is not a refusal. -/
def EndsWith (i : Instr) (s : State) (o : PEOutcome) : Prop :=
  ∃ u, exec i s = .next u ∧ u.outcome = some o

/-- The condition that R70 tests before any trap at EL1 and EL2. -/
def EarlyUndefined (p : Params) (i : Inputs) : Prop :=
  i.halted = true ∧ p.haveEL3 = true ∧ i.sdd = true ∧ p.el3PrioSDD = true ∧ i.ttaEL3 = true

/-- R70 (b). -/
def PointB (p : Params) (i : Inputs) : Prop := i.el = .el1 ∧ EarlyUndefined p i

/-- R70 (c): EL1, (b) did not apply, `CPACR_EL1.TTA`. -/
def PointC (p : Params) (i : Inputs) : Prop := i.el = .el1 ∧ ¬PointB p i ∧ i.ttaEL1 = true

/-- R70 (d): EL1, (b) and (c) did not apply, EL2 enabled and `CPTR_EL2.TTA`. -/
def PointD (p : Params) (i : Inputs) : Prop :=
  i.el = .el1 ∧ ¬PointB p i ∧ ¬PointC p i ∧ i.el2Enabled = true ∧ i.ttaEL2 = true

/-- R70 (e): EL1, (b) to (d) did not apply, the fine-grained trap bit for the direction. -/
def PointE (k : AccessKind) (p : Params) (i : Inputs) : Prop :=
  i.el = .el1 ∧ ¬PointB p i ∧ ¬PointC p i ∧ ¬PointD p i ∧
    i.el2Enabled = true ∧ (p.haveEL3 = false ∨ i.fgtEn = true) ∧ fineTrap k i = true

/-- At EL1 none of (b) to (e) applied. -/
def PastEL2AtEL1 (k : AccessKind) (p : Params) (i : Inputs) : Prop :=
  i.el = .el1 ∧ ¬PointB p i ∧ ¬PointC p i ∧ ¬PointD p i ∧ ¬PointE k p i

/-- `CPTR_EL3.TTA` claims an access from a lower level. -/
def ClaimedByEL3 (p : Params) (i : Inputs) : Prop := p.haveEL3 = true ∧ i.ttaEL3 = true

/-- R70 (f): none of (b) to (e) applied, `CPTR_EL3.TTA` claims the access, and the PE is halted with `SDD == 1`. -/
def PointF (k : AccessKind) (p : Params) (i : Inputs) : Prop :=
  PastEL2AtEL1 k p i ∧ ClaimedByEL3 p i ∧ (i.halted = true ∧ i.sdd = true)

/-- R70 (g): as (f), and not halted with `SDD == 1`. -/
def PointG (k : AccessKind) (p : Params) (i : Inputs) : Prop :=
  PastEL2AtEL1 k p i ∧ ClaimedByEL3 p i ∧ ¬(i.halted = true ∧ i.sdd = true)

/-- R70 (h): EL1 and nothing claims the access. -/
def PointH (k : AccessKind) (p : Params) (i : Inputs) : Prop := PastEL2AtEL1 k p i ∧ ¬ClaimedByEL3 p i

/-- R70 (i). -/
def PointI (p : Params) (i : Inputs) : Prop := i.el = .el2 ∧ EarlyUndefined p i

/-- R70 (j): EL2, (i) did not apply, `CPTR_EL2.TTA`. -/
def PointJ (p : Params) (i : Inputs) : Prop := i.el = .el2 ∧ ¬PointI p i ∧ i.ttaEL2 = true

/-- R70 (k): EL2, neither (i) nor (j) applied, `CPTR_EL3.TTA` claims the access, halted with `SDD == 1`. -/
def PointK (p : Params) (i : Inputs) : Prop :=
  i.el = .el2 ∧ ¬PointI p i ∧ ¬PointJ p i ∧ ClaimedByEL3 p i ∧ (i.halted = true ∧ i.sdd = true)

/-- R70 (l): as (k), and not halted with `SDD == 1`. -/
def PointL (p : Params) (i : Inputs) : Prop :=
  i.el = .el2 ∧ ¬PointI p i ∧ ¬PointJ p i ∧ ClaimedByEL3 p i ∧ ¬(i.halted = true ∧ i.sdd = true)

/-- R70 (m): EL2 and nothing claims the access. -/
def PointM (p : Params) (i : Inputs) : Prop :=
  i.el = .el2 ∧ ¬PointI p i ∧ ¬PointJ p i ∧ ¬ClaimedByEL3 p i

/-- R70 (n). -/
def PointN (i : Inputs) : Prop := i.el = .el3 ∧ i.ttaEL3 = true

/-- R70 (o). -/
def PointO (i : Inputs) : Prop := i.el = .el3 ∧ i.ttaEL3 = false

/-- The access check allows the access: point (h), (m) or (o) of R70. -/
def Allowed (k : AccessKind) (p : Params) (i : Inputs) : Prop := PointH k p i ∨ PointM p i ∨ PointO i

/-- The bit that a read of TRCCONFIGR returns at position `i` (10_state.md R36), `draw` supplying an Unknown cell. -/
def BitRead (p : Params) (cells : Vector Cell 64) (draw : Word) (i : Fin 64) (b : Bool) : Prop :=
  ((storeMask p)[i] = true → ∀ k, cells[i] = .known k → b = k) ∧
  ((storeMask p)[i] = true → cells[i] = .unknown → b = draw[i]) ∧
  ((storeMask p)[i] = false → b = (res1Mask p)[i])

/-- When QE is implemented its two cells are both Unknown or hold a permitted value (10_state.md R38 clause (b): "In
every state reached by the spec's own rules a reserved QE value is never Known"). -/
def QESound (p : Params) (cells : Vector Cell 64) : Prop :=
  p.qsupp ≠ 0b00#2 →
    (cells[14] = .unknown ∧ cells[13] = .unknown) ∨
    ∃ hi lo, cells[14] = .known hi ∧ cells[13] = .known lo ∧
      qePermitted p (BitVec.ofBool hi ++ BitVec.ofBool lo) = true

/-- One on/off field of 10_state.md: at bit `i`, present under `present`, read as the option `opt`. When present it is
written as given and reads back, its option is on exactly when the bit is 1, and a Trace unit reset makes it Unknown;
otherwise the bit is RES0. -/
def OnOffField (p : Params) (i : Fin 64) (present : Prop) (opt : TraceControls → OptionValue) : Prop :=
  (present → (implMask p)[i] = true ∧
    (∀ (cells : Vector Cell 64) (v draw : Word), (writeValue p cells v)[i] = .known v[i] ∧
      (readValue p (writeValue p cells v) draw)[i] = v[i]) ∧
    (∀ cells : Vector Cell 64, cells[i] = .known true → opt (controlsOf p cells) = .enabled) ∧
    (∀ cells : Vector Cell 64, cells[i] = .known false → opt (controlsOf p cells) = .disabled) ∧
    (∀ cells : Vector Cell 64, (resetCells p cells)[i] = .unknown)) ∧
  (¬present → (res0Mask p)[i] = true)

/-- The invariant of the machine. -/
structure Inv (s : State) : Prop where
  /-- `P_ResStored & ImplMask == 0` (10_state.md R34). -/
  params : s.params.wellFormed = true
  /-- `EL == EL3` only when EL3 exists (00_scope.md R8). -/
  inputs : s.inputs.wellFormed s.params = true
  /-- The pc is 4-byte aligned, as instruction words are (20_memory.md R52); the pc is the model's (log 7, 11). -/
  aligned : s.pc.extractLsb' 0 2 = 0b00#2
  /-- A cell that is not storage is held Unknown and never written: the model's choice (log 4). -/
  unstored : ∀ i : Fin 64, (storeMask s.params)[i] = false → s.cells[i] = .unknown
  /-- QE never holds a Known reserved value (10_state.md R38). -/
  qe : QESound s.params s.cells

end Sys2Proof.Machine
end

