-- ==== Sys2Proof/Certificates/Slice0/Obligations.lean ====
section
/-! DEFINITION. The statements for the provers. Each docstring names the rules of spec/ the statement rests on. -/

open Sys2Proof Sys2Proof.Machine

/-! ### Encoding -/

/-- Decoding the word, or the stored bytes, of a well-formed instruction gives it back, with what follows it
(30_encoding.md R60 to R63; the word layout is the spec's general knowledge GK1, log 26). -/
def Obligations.EncodeThenDecodeGivesInstruction : Prop :=
  ∀ (i : Instr) (rest : List Byte), i.wellFormed = true →
    decodeWord (encode i) = .ok i ∧ decodeBytes (wordBytes (encode i) ++ rest) = .ok (i, rest)

/-- A word that decodes is the word of the instruction it decodes to, and every other word is `NotInScope`
(30_encoding.md R64, D19, log 27; the word layout is the spec's general knowledge GK1, log 26). -/
def Obligations.OnlyEncodedWordsDecode : Prop :=
  ∀ w : InstrWord, (∀ i, decodeWord w = .ok i → encode i = w) ∧
    ((∀ i, encode i ≠ w) → decodeWord w = .error (.notInScope w))

/-- The seven words and the nine near misses that 95_test_vectors.md 2.1 lists (the word layout is the spec's general
knowledge GK1, log 26). -/
def Obligations.ListedWordsDecodeAsListed : Prop :=
  decodeWord 0xD5310400#32 = .ok (.mrsTrcconfigr 0) ∧ decodeWord 0xD5310401#32 = .ok (.mrsTrcconfigr 1) ∧
  decodeWord 0xD531041E#32 = .ok (.mrsTrcconfigr 30) ∧ decodeWord 0xD531041F#32 = .ok (.mrsTrcconfigr 31) ∧
  decodeWord 0xD5110400#32 = .ok (.msrTrcconfigr 0) ∧ decodeWord 0xD5110419#32 = .ok (.msrTrcconfigr 25) ∧
  decodeWord 0xD511041F#32 = .ok (.msrTrcconfigr 31) ∧
  decodeWord 0xD5310420#32 = .error (.notInScope 0xD5310420#32) ∧
  decodeWord 0xD5310500#32 = .error (.notInScope 0xD5310500#32) ∧
  decodeWord 0xD5310000#32 = .error (.notInScope 0xD5310000#32) ∧
  decodeWord 0xD5311400#32 = .error (.notInScope 0xD5311400#32) ∧
  decodeWord 0xD5300400#32 = .error (.notInScope 0xD5300400#32) ∧
  decodeWord 0xD5320400#32 = .error (.notInScope 0xD5320400#32) ∧
  decodeWord 0xD5390400#32 = .error (.notInScope 0xD5390400#32) ∧
  decodeWord 0xD5710400#32 = .error (.notInScope 0xD5710400#32) ∧
  decodeWord 0x55310400#32 = .error (.notInScope 0x55310400#32)

/-- A step of the PE runs the instruction at the head of its program, with that word and the turn taken off their lists
and nothing else changed (10_state.md R42 has a program as a list). The model's choice: the program as a list of words
decoded when executed (log 8); the turns, the PE moving when none is listed, and a turn taken off as it is run
(log 21). -/
def Obligations.StepRunsDecodedInstruction : Prop :=
  ∀ (s : State) (w : InstrWord) (ws : List InstrWord) (i : Instr),
    s.program = w :: ws → decodeWord w = .ok i →
    (s.turns = [] → step s = exec i { s with program := ws }) ∧
    (∀ us, s.turns = .pe :: us → step s = exec i { s with program := ws, turns := us })

/-- A word that is neither instruction is refused as `NotInScope` (30_encoding.md R64; log 27), and a PE with no
instruction left stops (10_state.md R42). Both whether no turn is listed or the PE's turn is listed first. The model's
choice: the list of words and the stop at its end (log 8), the turns (log 21). -/
def Obligations.StepStopsWithoutAnInstruction : Prop :=
  ∀ s : State, (s.turns = [] ∨ s.turns.head? = some .pe) →
    (s.program = [] → step s = .fault .programEnded) ∧
    (∀ w ws, s.program = w :: ws → (∀ i, decodeWord w ≠ .ok i) → step s = .refused (.notInScope w))

/-- The instruction of a table word put in the PE's program is what the next step runs, and nothing else of the state
differs (the placing is the model's, log 8). -/
def Obligations.PlacedWordRunsNext : Prop :=
  ∀ (s : State) (nbits w : Nat) (i : Instr), decodeTableWord nbits w = some i →
    step (s.withFetchWord nbits w) = exec i s

/-! ### The access check -/

/-- 60_exceptions.md R85: Undefined is the outcome in exactly these cases. -/
def Obligations.UndefinedExactlyWhen : Prop :=
  ∀ (i : Instr) (s : State), EndsWith i s .undefined ↔
    (s.params.featETE = false ∨ s.inputs.el = .el0 ∨ PointB s.params s.inputs ∨ PointI s.params s.inputs ∨
      PointF i.kind s.params s.inputs ∨ PointK s.params s.inputs)

/-- 60_exceptions.md R86: `Trap(EL1, 0x18)` in exactly one case. -/
def Obligations.TrapToEL1ExactlyWhen : Prop :=
  ∀ (i : Instr) (s : State), s.params.featETE = true →
    (EndsWith i s (.trap .el1 0x18#6) ↔ PointC s.params s.inputs)

/-- 60_exceptions.md R87: `Trap(EL2, 0x18)` in exactly these cases. -/
def Obligations.TrapToEL2ExactlyWhen : Prop :=
  ∀ (i : Instr) (s : State), s.params.featETE = true →
    (EndsWith i s (.trap .el2 0x18#6) ↔
      (PointD s.params s.inputs ∨ PointE i.kind s.params s.inputs ∨ PointJ s.params s.inputs))

/-- 60_exceptions.md R88: `Trap(EL3, 0x18)` in exactly these cases. -/
def Obligations.TrapToEL3ExactlyWhen : Prop :=
  ∀ (i : Instr) (s : State), s.params.featETE = true →
    (EndsWith i s (.trap .el3 0x18#6) ↔
      (PointG i.kind s.params s.inputs ∨ PointL s.params s.inputs ∨ PointN s.inputs))

/-- 40_sysreg_access.md R74: without FEAT_ETE both instructions end Undefined, whatever the inputs. -/
def Obligations.AbsentRegisterIsUndefined : Prop :=
  ∀ (i : Instr) (s : State), s.params.featETE = false →
    ∀ inp : Inputs, EndsWith i { s with inputs := inp } .undefined

/-- How an instruction ends depends on its direction, the parameters and the inputs only: not on TRCCONFIGR, not on the
operand `t`, not on any general-purpose register (40_sysreg_access.md R70: "It reads nothing of TRCCONFIGR and nothing
of `t`."). -/
def Obligations.OutcomeIgnoresRegisterAndOperand : Prop :=
  ∀ (i j : Instr) (s s' : State), i.kind = j.kind → s.params = s'.params → s.inputs = s'.inputs →
    (∀ o, EndsWith i s o → EndsWith j s' o) ∧ (∀ r, exec i s = .refused r → exec j s' = .refused r)

/-- At EL0 no instruction completes: it ends Undefined, neither TRCCONFIGR nor any general-purpose register changes, and
the PE's program ends (40_sysreg_access.md R78, 60_exceptions.md R92, 10_state.md R42; log 9). What the entry does write
is the model's (log 10) and stated apart. -/
def Obligations.EL0NeverCompletes : Prop :=
  ∀ (i : Instr) (s : State), s.inputs.el = .el0 →
    ∃ u, exec i s = .next u ∧ u.outcome = some .undefined ∧ u.cells = s.cells ∧ u.x = s.x ∧ u.program = []

/-- 93_implementation_defined.md U4: the implementation's EL3 trap priority changes the answer only when the PE is
halted with `SDD == 1` and `CPTR_EL3.TTA == 1` and a trap to EL1 or EL2 also applies; then true gives Undefined and
false gives that trap. -/
def Obligations.EL3PriorityMattersOnlyWhenHalted : Prop :=
  ∀ (k : AccessKind) (p : Params) (i : Inputs),
    accessCheck k { p with el3PrioSDD := true } i ≠ accessCheck k { p with el3PrioSDD := false } i →
      i.halted = true ∧ i.sdd = true ∧ i.ttaEL3 = true ∧
      accessCheck k { p with el3PrioSDD := true } i = .undefined ∧
      (accessCheck k { p with el3PrioSDD := false } i = .trap .el1 ∨
       accessCheck k { p with el3PrioSDD := false } i = .trap .el2)

/-- 60_exceptions.md R93: the handler of a trap that was taken to the level it came from, or by `CPTR_EL2.TTA` or
`CPTR_EL3.TTA`, traps again to the same level when it repeats the access with the same trap bits. Rests on exception
entry setting the level (log 10). -/
def Obligations.HandlerTrapsAgain : Prop :=
  ∀ (i : Instr) (s u : State) (l : ExcLevel), s.inputs.halted = false → exec i s = .next u →
    u.outcome = some (.trap l 0x18#6) → ¬PointE i.kind s.params s.inputs → EndsWith i u (.trap l 0x18#6)

/-! ### The two instructions -/

/-- `MRS <Xt>, TRCCONFIGR` completes whenever the register is present and the access is allowed: `X[t]` takes every bit
of the value read, number 31 is not written, and nothing else changes but the pc (40_sysreg_access.md R71,
10_state.md R36, R41, R42, 20_memory.md R54; the pc is log 7). -/
def Obligations.MrsCompletes : Prop :=
  ∀ (t : RegNum) (s : State), s.params.featETE = true → Allowed .read s.params s.inputs →
    ∃ u, exec (.mrsTrcconfigr t) s = .next u ∧
      (t ≠ 31#5 → ∀ i : Fin 64, BitRead s.params s.cells (Config.freeBits s.draws) i (u.readX t)[i]) ∧
      (t = 31#5 → u.x = s.x) ∧ (∀ t', t' ≠ t → u.readX t' = s.readX t') ∧
      u.cells = s.cells ∧ u.params = s.params ∧ u.inputs = s.inputs ∧ u.exc = s.exc ∧
      u.pc = s.pc + 4#64 ∧ u.outcome = some .done ∧ u.program = s.program ∧ u.turns = s.turns ∧
      u.extData = s.extData ∧ u.controls = s.controls

/-- `MSR TRCCONFIGR, <Xt>` completes whenever the register is present, the access is allowed and the trace unit is Idle:
every storage cell takes its bit of `X[t]`, a reserved QE value makes the QE cells Unknown, a cell that is not storage
is unchanged, and nothing else changes but the pc (40_sysreg_access.md R72, 10_state.md R37, R41, R42; D8, log 17; the
pc is log 7). -/
def Obligations.MsrCompletes : Prop :=
  ∀ (t : RegNum) (s : State), s.params.featETE = true → Allowed .write s.params s.inputs →
    s.inputs.idle = true →
    ∃ u, exec (.msrTrcconfigr t) s = .next u ∧
      (∀ i : Fin 64, (storeMask s.params)[i] = false → u.cells[i] = s.cells[i]) ∧
      (∀ i : Fin 64, (storeMask s.params)[i] = true → i ≠ 13 ∧ i ≠ 14 → u.cells[i] = .known (s.readX t)[i]) ∧
      (qeReserved s.params (s.readX t) = true → u.cells[13] = .unknown ∧ u.cells[14] = .unknown) ∧
      (∀ i : Fin 64, (storeMask s.params)[i] = true → qeReserved s.params (s.readX t) = false →
        u.cells[i] = .known (s.readX t)[i]) ∧
      u.x = s.x ∧ u.params = s.params ∧ u.inputs = s.inputs ∧ u.exc = s.exc ∧
      u.pc = s.pc + 4#64 ∧ u.outcome = some .done ∧ u.program = s.program ∧ u.turns = s.turns ∧
      u.extData = s.extData ∧ u.controls = s.controls

/-- Neither instruction stops except an allowed write made while the trace unit is not Idle, which is always refused
(40_sysreg_access.md R73, D7, log 16). -/
def Obligations.OnlyWritesWhileNotIdleAreRefused : Prop :=
  ∀ (i : Instr) (s : State),
    (∀ f, exec i s ≠ .fault f) ∧
    (∀ r, exec i s = .refused r ↔
      (r = .writeNotIdle ∧ i.kind = .write ∧ s.params.featETE = true ∧ Allowed .write s.params s.inputs ∧
        s.inputs.idle = false))

/-- An instruction that does not complete has had no effect on TRCCONFIGR and none on any general-purpose register, and
ends the PE's program; of the inputs only the level may differ (60_exceptions.md R92, 10_state.md R42; log 9, 10). -/
def Obligations.FaultsArePrecise : Prop :=
  ∀ (i : Instr) (s u : State), exec i s = .next u → u.outcome ≠ some .done →
    u.cells = s.cells ∧ u.x = s.x ∧ u.params = s.params ∧ u.inputs = withLevel s.inputs u.inputs.el ∧
    u.program = [] ∧ u.turns = s.turns ∧ u.extData = s.extData ∧ u.controls = s.controls

/-- An instruction that does not complete learns nothing of TRCCONFIGR: run over any other contents it leaves the same
state but for those contents (60_exceptions.md R92, 40_sysreg_access.md R70). That the level, pc, syndrome and return
address do not depend on the contents either is the model's choice: the entry of log 10, and the free values of log 11,
12 and 14, which depend on the counter `draws` (log 3) alone. -/
def Obligations.DeniedAccessLearnsNothing : Prop :=
  ∀ (i : Instr) (s u : State) (cells : Vector Cell 64), exec i s = .next u → u.outcome ≠ some .done →
    exec i { s with cells := cells } = .next { u with cells := cells }

/-- A trap taken while not halted: the level it is taken to records the syndrome `0x62204008 | (t << 5) | Direction` and
the address of the trapped instruction, the PE runs at that level, and the other levels' registers are unchanged
(60_exceptions.md R91, the spec's general knowledge GK5; log 7, 10). -/
def Obligations.TrapEntryRecordsSyndrome : Prop :=
  ∀ (i : Instr) (s : State) (l : ExcLevel), s.inputs.halted = false → EndsWith i s (.trap l 0x18#6) →
    ∃ u, exec i s = .next u ∧
      (bankOf u.exc l).syndrome =
        0x62204008#32 ||| (i.reg.setWidth 32 <<< 5) ||| (if i.kind = .read then 1#32 else 0#32) ∧
      (bankOf u.exc l).returnAddr = s.pc ∧ u.inputs.el = l.toEL ∧ u.outcome = some (.trap l 0x18#6) ∧
      ∀ l', l' ≠ l → bankOf u.exc l' = bankOf s.exc l'

/-- An Undefined exception taken while not halted: taken to EL1 from EL0, or to EL2 when EL2 is enabled and configured
to take EL0 exceptions, and otherwise to the level it executed at; the exception class recorded is 0x00 and the return
address the instruction's own (60_exceptions.md R90, the spec's general knowledge GK4; log 7, 10, 12, 13). -/
def Obligations.UndefinedEntryTargets : Prop :=
  ∀ (i : Instr) (s : State), s.inputs.halted = false → EndsWith i s .undefined →
    ∃ (u : State) (l : ExcLevel), exec i s = .next u ∧
      (s.inputs.el = .el0 → s.inputs.el2Enabled = true ∧ s.inputs.el0ToEL2 = true → l = .el2) ∧
      (s.inputs.el = .el0 → ¬(s.inputs.el2Enabled = true ∧ s.inputs.el0ToEL2 = true) → l = .el1) ∧
      (s.inputs.el ≠ .el0 → l.toEL = s.inputs.el) ∧
      (bankOf u.exc l).syndrome.extractLsb' 26 6 = 0x00#6 ∧ (bankOf u.exc l).returnAddr = s.pc ∧
      u.inputs.el = l.toEL ∧ u.outcome = some .undefined ∧ ∀ l', l' ≠ l → bankOf u.exc l' = bankOf s.exc l'

/-- A completed `MSR` followed by a completed `MRS` returns the written value in every implemented field, a reserved QE
value excepted (20_memory.md R56, 10_state.md R36, R37; D17, log 21). -/
def Obligations.WriteThenReadReturnsValue : Prop :=
  ∀ (t t' : RegNum) (s u v : State), exec (.msrTrcconfigr t) s = .next u → u.outcome = some .done →
    exec (.mrsTrcconfigr t') u = .next v → v.outcome = some .done → t' ≠ 31#5 →
    ∀ i : Fin 64, (implMask s.params)[i] = true →
      (i = 13 ∨ i = 14 → qeReserved s.params (s.readX t) = false) → (v.readX t')[i] = (s.readX t)[i]

/-- A completed `MSR` of a reserved QE value leaves both QE cells Unknown and the register not Legal, and stores every
other cell (10_state.md R23, R37, R38; D8, log 17). -/
def Obligations.ReservedQEBecomesUnknown : Prop :=
  ∀ (t : RegNum) (s u : State), exec (.msrTrcconfigr t) s = .next u → u.outcome = some .done →
    s.params.qsupp ≠ 0b00#2 → qePermitted s.params ((s.readX t).extractLsb' 13 2) = false →
    u.cells[13] = .unknown ∧ u.cells[14] = .unknown ∧ legal u.params u.cells = false ∧
    ∀ i : Fin 64, (storeMask s.params)[i] = true → i ≠ 13 ∧ i ≠ 14 → u.cells[i] = .known (s.readX t)[i]

/-- With every reserved bit hardwired a completed `MRS` reads 0 in every RES0 bit and 1 in every RES1 bit, whatever the
cells hold (10_state.md R36; D3, log 2). -/
def Obligations.HardwiredBitsReadArchitected : Prop :=
  ∀ (t : RegNum) (s u : State), exec (.mrsTrcconfigr t) s = .next u → u.outcome = some .done → t ≠ 31#5 →
    s.params.resStored = 0#64 → u.readX t &&& resMask s.params = res1Mask s.params

/-- A write of the whole register leaves nothing of an earlier write, of either view, and so writing the same value twice
is writing it once (70_reset_and_hazards.md R109, 20_memory.md R54). -/
def Obligations.LaterWriteOverwritesEarlier : Prop :=
  ∀ (p : Params) (cells : Vector Cell 64) (v w : Word) (w32 : BitVec 32),
    writeValue p (writeValue p cells w) v = writeValue p cells v ∧
    writeValue p (writeValue32 p cells w32) v = writeValue p cells v

/-- Two reads in a row, into one register or two, agree in every bit that is not an Unknown storage cell (10_state.md
R36, 20_memory.md R54; vector Z5 says why the others need not). -/
def Obligations.RepeatedReadsAgreeOnKnownBits : Prop :=
  ∀ (t t' : RegNum) (s u v : State), t ≠ 31#5 → t' ≠ 31#5 →
    exec (.mrsTrcconfigr t) s = .next u → u.outcome = some .done →
    exec (.mrsTrcconfigr t') u = .next v → v.outcome = some .done →
    ∀ i : Fin 64, ((storeMask s.params)[i] = true → s.cells[i] ≠ .unknown) → (v.readX t')[i] = (u.readX t)[i]

/-! ### The fields -/

/-- The masks of 10_state.md R35, bit by bit. -/
def Obligations.MasksBitByBit : Prop :=
  ∀ (p : Params) (i : Fin 64),
    ((implMask p)[i] = true ↔
      (i = 15 ∧ p.vmidopt = 0b01#2) ∨ ((i = 14 ∨ i = 13) ∧ p.qsupp ≠ 0b00#2) ∨ (i = 12 ∧ p.retstack = true) ∨
      (i = 11 ∧ p.tssize ≠ 0b00000#5) ∨ (i = 7 ∧ p.vmidsize ≠ 0b00000#5) ∨ (i = 6 ∧ p.cidsize ≠ 0b00000#5) ∨
      (i = 4 ∧ p.trccci = true) ∨ (i = 3 ∧ p.trcbb = true)) ∧
    ((res1Mask p)[i] = true ↔ i = 0 ∨ (i = 15 ∧ p.vmidopt = 0b10#2)) ∧
    ((resMask p)[i] = true ↔ (implMask p)[i] = false) ∧
    ((res0Mask p)[i] = true ↔ (implMask p)[i] = false ∧ (res1Mask p)[i] = false) ∧
    ((storeMask p)[i] = true ↔ (implMask p)[i] = true ∨ p.resStored[i] = true) ∧
    ¬((implMask p)[i] = true ∧ (res1Mask p)[i] = true)

/-- 10_state.md R19: bit [15] has four cases selected by `P_VMIDOPT`. When implemented it is written as given, reads
back, and either value is legal. -/
def Obligations.Bit15HasFourCases : Prop :=
  ∀ p : Params,
    (p.vmidopt = 0b00#2 → (res0Mask p)[15] = true) ∧
    (p.vmidopt = 0b10#2 → (resMask p)[15] = true ∧ (res1Mask p)[15] = true) ∧
    (p.vmidopt = 0b01#2 → (implMask p)[15] = true ∧
      (∀ (cells : Vector Cell 64) (v draw : Word), (writeValue p cells v)[15] = .known v[15] ∧
        (readValue p (writeValue p cells v) draw)[15] = v[15]) ∧
      (∀ (cells : Vector Cell 64) (b b' : Bool),
        legal p (cells.set 15 (.known b)) = legal p (cells.set 15 (.known b')))) ∧
    (p.vmidopt = 0b11#2 → (res0Mask p)[15] = true)

/-- 10_state.md R21: QE exists in three of the four values of `P_QSUPP`, with a different set of permitted values in
each, and 0b10 is reserved in every case. A permitted value is written as given and
reads back. -/
def Obligations.QEPermittedValues : Prop :=
  ∀ (p : Params) (q : BitVec 2),
    (p.qsupp = 0b00#2 → (res0Mask p)[14] = true ∧ (res0Mask p)[13] = true) ∧
    (p.qsupp ≠ 0b00#2 → (implMask p)[14] = true ∧ (implMask p)[13] = true ∧
      ∀ (cells : Vector Cell 64) (v draw : Word), qePermitted p (v.extractLsb' 13 2) = true →
        (writeValue p cells v)[14] = .known v[14] ∧ (writeValue p cells v)[13] = .known v[13] ∧
        (readValue p (writeValue p cells v) draw)[14] = v[14] ∧
        (readValue p (writeValue p cells v) draw)[13] = v[13]) ∧
    (p.qsupp = 0b01#2 → (qePermitted p q = true ↔ q = 0b00#2 ∨ q = 0b01#2)) ∧
    (p.qsupp = 0b10#2 → (qePermitted p q = true ↔ q = 0b00#2 ∨ q = 0b11#2)) ∧
    (p.qsupp = 0b11#2 → (qePermitted p q = true ↔ q = 0b00#2 ∨ q = 0b01#2 ∨ q = 0b11#2)) ∧
    qePermitted p 0b10#2 = false

/-- The six fields of 10_state.md R24, R25, R27, R28, R30 and R31. -/
def Obligations.OnOffFieldsFollowTheirConditions : Prop :=
  ∀ p : Params,
    OnOffField p 12 (p.retstack = true) TraceControls.returnStack ∧
    OnOffField p 11 (p.tssize ≠ 0b00000#5) TraceControls.globalTimestamp ∧
    OnOffField p 7 (p.vmidsize ≠ 0b00000#5) TraceControls.vctxTracing ∧
    OnOffField p 6 (p.cidsize ≠ 0b00000#5) TraceControls.ctxTracing ∧
    OnOffField p 4 (p.trccci = true) TraceControls.cycleCounting ∧
    OnOffField p 3 (p.trcbb = true) TraceControls.branchBroadcast

/-- The meaning of each permitted QE value, and `NotControlled` when QE is reserved (10_state.md R22, R40; D28). -/
def Obligations.QEMeanings : Prop :=
  ∀ (p : Params) (cells : Vector Cell 64) (hi lo : Bool),
    (p.qsupp ≠ 0b00#2 → cells[14] = .known hi → cells[13] = .known lo →
      ((hi = false ∧ lo = false → (controlsOf p cells).qWithCounts = .disabled ∧
          (controlsOf p cells).qWithoutCounts = .disabled) ∧
       (hi = false ∧ lo = true → (controlsOf p cells).qWithCounts = .enabled ∧
          (controlsOf p cells).qWithoutCounts = .disabled) ∧
       (hi = true ∧ lo = true → (controlsOf p cells).qWithCounts = .enabled ∧
          (controlsOf p cells).qWithoutCounts = .enabled))) ∧
    (p.qsupp = 0b00#2 → (controlsOf p cells).qWithCounts = .notControlled ∧
      (controlsOf p cells).qWithoutCounts = .notControlled)

/-- The Virtual context identifier selected (10_state.md R20; 0b11 has no meaning by D24, log 23). -/
def Obligations.VirtualContextSelection : Prop :=
  ∀ (p : Params) (cells : Vector Cell 64),
    (p.vmidopt = 0b00#2 → (controlsOf p cells).vctxSelect = .useVMID) ∧
    (p.vmidopt = 0b10#2 → (controlsOf p cells).vctxSelect = .usePROCID) ∧
    (p.vmidopt = 0b01#2 → cells[15] = .known false → (controlsOf p cells).vctxSelect = .useVMID) ∧
    (p.vmidopt = 0b01#2 → cells[15] = .known true → (controlsOf p cells).vctxSelect = .usePROCID) ∧
    (p.vmidopt = 0b11#2 → (controlsOf p cells).vctxSelect = .noMeaning)

/-- Which written values leave the register Legal: a permitted QE, QE = 0b00 if BB = 1, and storage reserved bits at
their architected values (10_state.md R38, 70_reset_and_hazards.md R104, R105, R107; D9, log 18). -/
def Obligations.LegalAfterWriteExactlyWhen : Prop :=
  ∀ (p : Params) (cells : Vector Cell 64) (v : Word), p.wellFormed = true →
    (legal p (writeValue p cells v) = true ↔
      (p.qsupp ≠ 0b00#2 → qePermitted p (v.extractLsb' 13 2) = true) ∧
      (p.qsupp ≠ 0b00#2 → p.trcbb = true → v[3] = true → v.extractLsb' 13 2 = 0b00#2) ∧
      (∀ i : Fin 64, (resMask p)[i] = true → p.resStored[i] = true → v[i] = (res1Mask p)[i]))

/-- A Legal register with branch broadcasting enabled asks for no Q elements (10_state.md R38 clause (c), R40). -/
def Obligations.BranchBroadcastExcludesQElements : Prop :=
  ∀ (p : Params) (cells : Vector Cell 64) (c : TraceControls), traceControls p cells = some c →
    c.branchBroadcast = .enabled → c.qWithCounts ≠ .enabled ∧ c.qWithoutCounts ≠ .enabled

/-- The trace unit's read of the options: reported when the register is present and Legal, changing nothing else;
otherwise refused (10_state.md R38, R40; D9, log 18, 24). -/
def Obligations.TraceReadReportsOptions : Prop :=
  ∀ (s : State) (us : List Turn), s.turns = .traceRead :: us →
    (s.params.featETE = true → legal s.params s.cells = true →
      step s = .next { s with turns := us, controls := some (controlsOf s.params s.cells) }) ∧
    (s.params.featETE = true → legal s.params s.cells = false → step s = .refused .controlsUndefined) ∧
    (s.params.featETE = false → step s = .refused .registerAbsent)

/-! ### Reset and the whole machine -/

/-- A Trace unit reset makes every storage cell Unknown and changes no other state; the register is then not Legal when
any field is implemented (70_reset_and_hazards.md R100, 10_state.md R38, R45; D5, D6, log 4). -/
def Obligations.TraceUnitResetForgetsStoredCells : Prop :=
  ∀ (s : State) (us : List Turn), s.turns = .traceUnitReset :: us →
    ∃ u, step s = .next u ∧
      (∀ i : Fin 64, (storeMask s.params)[i] = true → u.cells[i] = .unknown) ∧
      (∀ i : Fin 64, (storeMask s.params)[i] = false → u.cells[i] = s.cells[i]) ∧
      (implMask s.params ≠ 0#64 → legal u.params u.cells = false) ∧
      u = { s with turns := us, cells := u.cells }

/-- A run starts with every storage cell Unknown, whatever the parameters and inputs, and so not Legal when any field is
implemented (70_reset_and_hazards.md R102; D6, log 4). -/
def Obligations.RunStartsUnknown : Prop :=
  ∀ (p : Params) (inp : Inputs),
    (∀ i : Fin 64, (storeMask p)[i] = true → (State.initial p inp).cells[i] = .unknown) ∧
    (implMask p ≠ 0#64 → legal p (State.initial p inp).cells = false) ∧
    State.reset.cells = (State.initial p inp).cells

/-- The invariant holds at reset (10_state.md R34, R38, 00_scope.md R8). The model's choice: the parameter set and the
inputs of reset (log 1, 6), the pc, which is 0 there (log 7), and cells that are not storage held Unknown (log 4). -/
def Obligations.InvariantAtReset : Prop := Inv State.reset

/-- Every step of every agent keeps the invariant: the parameters stay well formed, EL3 is entered only where it exists,
QE never holds a Known reserved value (10_state.md R34, R38, 00_scope.md R8), the pc stays aligned and cells that are not
storage stay Unknown. The model's choice: that there is a pc (log 7) and that it is aligned after a fault (log 11), the
free level while halted, EL3 only where it exists (log 14), and cells that are not storage held Unknown (log 4). -/
def Obligations.InvariantKeptByEveryStep : Prop :=
  ∀ s u : State, Inv s → step s = .next u → Inv u

/-- What may change TRCCONFIGR: an `MSR` that completes, an admitted external write, both only while the trace unit is
Idle, and a Trace unit reset (00_scope.md R6, 20_memory.md R46, R54, 40_sysreg_access.md R72, R78,
41_external_access.md R81, 70_reset_and_hazards.md R100). That a write happens only while Idle rests on the refusal of log 16; that nothing else
writes is the model's list of agents and turns (log 21, 22). -/
def Obligations.OnlyWritersChangeTheRegister : Prop :=
  ∀ s u : State, step s = .next u → u.cells ≠ s.cells →
    (∃ t w ws, s.program = w :: ws ∧ decodeWord w = .ok (.msrTrcconfigr t) ∧ (s.turns = [] ∨ s.turns.head? = some .pe) ∧
      s.params.featETE = true ∧ s.inputs.el ≠ .el0 ∧ Allowed .write s.params s.inputs ∧ s.inputs.idle = true ∧
      u.outcome = some .done) ∨
    (∃ a v us, s.turns = .extWrite a v :: us ∧ s.params.featETE = true ∧ a.ok = true ∧ a.bits = 32 ∧
      a.addr = extAddress s.params ∧ s.inputs.idle = true) ∨
    (∃ us, s.turns = .traceUnitReset :: us)

/-- What may change a general-purpose register: an `MRS` that completes, and only the register it names, or an
instruction outside the spec (40_sysreg_access.md R71, R72, 10_state.md R41, 70_reset_and_hazards.md R109). That nothing
else writes is the model's list of turns (log 21, 22). -/
def Obligations.OnlyReadersChangeX : Prop :=
  ∀ (s u : State) (t : RegNum), step s = .next u → u.readX t ≠ s.readX t →
    (∃ w ws, s.program = w :: ws ∧ decodeWord w = .ok (.mrsTrcconfigr t) ∧ (s.turns = [] ∨ s.turns.head? = some .pe) ∧
      t ≠ 31#5 ∧ s.params.featETE = true ∧ Allowed .read s.params s.inputs ∧ u.outcome = some .done) ∨
    (∃ v us, s.turns = .setX t v :: us ∧ t ≠ 31#5)

/-- No step changes the implementation's parameters, and of the exception registers only an instruction that faults
writes any (00_scope.md R7, D2; 60_exceptions.md R84 says which instructions raise exceptions). The model's choice: the
parameters in State (log 1), the exception registers and the entry that writes them (log 10, 14), and that no turn of
the surrounding machine writes them (log 22). -/
def Obligations.ParametersAndExceptionRegistersAreKept : Prop :=
  ∀ s u : State, step s = .next u →
    u.params = s.params ∧
    (u.exc ≠ s.exc → (s.turns = [] ∨ s.turns.head? = some .pe) ∧ u.outcome ≠ none ∧ u.outcome ≠ some .done)

/-! ### The External view -/

/-- An admitted external read returns bits [31:0] of the value read to the debugger and changes nothing else but the
draw counter, whether or not the trace unit is Idle (41_external_access.md R80, 20_memory.md R54). -/
def Obligations.ExternalReadCompletes : Prop :=
  ∀ (s : State) (a : ExtAccess) (us : List Turn), s.turns = .extRead a :: us → s.params.featETE = true →
    a.ok = true → a.bits = 32 → a.addr = extAddress s.params →
    ∃ (u : State) (d : BitVec 32), step s = .next u ∧ u.extData = some d ∧
      (∀ i : Fin 32, BitRead s.params s.cells (Config.freeBits s.draws) (i.castLE (by decide)) d[i]) ∧
      u = { s with turns := us, extData := some d, draws := u.draws }

/-- An admitted external write while Idle writes cells [31:0] under the storage mask, a reserved QE value making the QE
cells Unknown, leaves cells [63:32] unchanged and changes nothing else (41_external_access.md R81, R83; D8, D16,
log 17, 20). -/
def Obligations.ExternalWriteCompletes : Prop :=
  ∀ (s : State) (a : ExtAccess) (v : BitVec 32) (us : List Turn), s.turns = .extWrite a v :: us →
    s.params.featETE = true → a.ok = true → a.bits = 32 → a.addr = extAddress s.params → s.inputs.idle = true →
    ∃ u, step s = .next u ∧
      (∀ i : Fin 64, i.val ≥ 32 ∨ (storeMask s.params)[i] = false → u.cells[i] = s.cells[i]) ∧
      (∀ i : Fin 32, (storeMask s.params)[i.val] = true → i ≠ 13 ∧ i ≠ 14 → u.cells[i.val] = .known v[i]) ∧
      (qeReserved s.params (v.setWidth 64) = true → u.cells[13] = .unknown ∧ u.cells[14] = .unknown) ∧
      (∀ i : Fin 32, (storeMask s.params)[i.val] = true → qeReserved s.params (v.setWidth 64) = false →
        u.cells[i.val] = .known v[i]) ∧
      u = { s with turns := us, cells := u.cells }

/-- When an external access is refused, and how: `ext_access` when the register is absent or the access is not allowed,
then `ext_shape` for any other shape, then `write_not_idle` for a write (41_external_access.md R79, R82, 20_memory.md
R52). The spec ranks `ext_shape` neither with `ext_access` nor with `write_not_idle`: that it comes between them is the
model's choice (log 19). -/
def Obligations.ExternalAccessRefusals : Prop :=
  ∀ (s : State) (a : ExtAccess) (v : BitVec 32) (us : List Turn) (u : Turn),
    s.turns = u :: us → (u = .extRead a ∨ u = .extWrite a v) →
    (s.params.featETE = false ∨ a.ok = false → step s = .refused .extAccess) ∧
    (s.params.featETE = true → a.ok = true → a.bits ≠ 32 ∨ a.addr ≠ extAddress s.params →
      step s = .refused .extShape) ∧
    (s.params.featETE = true → a.ok = true → a.bits = 32 → a.addr = extAddress s.params →
      u = .extWrite a v → s.inputs.idle = false → step s = .refused .writeNotIdle)

/-- The two views name one storage: what the debugger writes an `MRS` then reads, in every implemented field (a reserved
QE value excepted), and what an `MSR` writes the debugger then reads (20_memory.md R46, R47; GK15, D17, log 21). -/
def Obligations.ViewsShareOneStorage : Prop :=
  ∀ (s u w : State) (a : ExtAccess) (t : RegNum) (i : Fin 32), (implMask s.params)[i.val] = true →
    (∀ v : BitVec 32, s.extWrite a v = .next u → exec (.mrsTrcconfigr t) u = .next w → w.outcome = some .done →
      t ≠ 31#5 → (i = 13 ∨ i = 14 → qeReserved s.params (v.setWidth 64) = false) →
      (w.readX t)[i.val] = v[i]) ∧
    (exec (.msrTrcconfigr t) s = .next u → u.outcome = some .done → u.extRead a = .next w →
      (i = 13 ∨ i = 14 → qeReserved s.params (s.readX t) = false) →
      ∃ d : BitVec 32, w.extData = some d ∧ d[i] = (s.readX t)[i.val])

/-- When reserved bits [63:32] are hardwired, what a completed `MRS` reads is what an admitted external read of the same
cells returns, zero extended: its bits [63:32] are 0, its other bits are those of the external read (an Unknown storage
cell excepted, of which each read may see another value), and the two are equal when no storage cell of bits [31:0] is
Unknown. Any value read is its own low half zero extended (20_memory.md R49, 10_state.md R17, R36; log 2, 3). -/
def Obligations.SystemViewExtendsExternalView : Prop :=
  (∀ (p : Params) (cells : Vector Cell 64) (draw : Word), p.resStored.extractLsb' 32 32 = 0#32 →
    readValue p cells draw = ((readValue p cells draw).setWidth 32).setWidth 64) ∧
  (∀ (s s' u w : State) (a : ExtAccess) (t : RegNum), s'.params = s.params → s'.cells = s.cells →
    s.params.resStored.extractLsb' 32 32 = 0#32 → t ≠ 31#5 →
    exec (.mrsTrcconfigr t) s = .next u → u.outcome = some .done → s'.extRead a = .next w →
    ∃ d : BitVec 32, w.extData = some d ∧ (u.readX t).extractLsb' 32 32 = 0#32 ∧
      (∀ i : Fin 32, ((storeMask s.params)[i.val] = true → s.cells[i.val] ≠ .unknown) →
        (u.readX t)[i.val] = d[i]) ∧
      ((∀ i : Fin 32, (storeMask s.params)[i.val] = true → s.cells[i.val] ≠ .unknown) →
        u.readX t = d.setWidth 64))

/-- The turns of the surrounding machine change what they name and nothing else; inconsistent inputs and a misaligned
program are refused (00_scope.md R8, 70_reset_and_hazards.md R109, 20_memory.md R52; the turns are the model's,
log 8, 22). -/
def Obligations.SurroundingMachineTurns : Prop :=
  ∀ (s : State) (us : List Turn),
    (∀ i, s.turns = .inputs i :: us → (i.el = .el3 → s.params.haveEL3 = true) →
      step s = .next { s with turns := us, inputs := i }) ∧
    (∀ i, s.turns = .inputs i :: us → i.el = .el3 → s.params.haveEL3 = false →
      step s = .refused .inconsistentInputs) ∧
    (∀ t v, s.turns = .setX t v :: us → ∃ u, step s = .next u ∧ (t ≠ 31#5 → u.readX t = v) ∧
      (∀ t', t' ≠ t → u.readX t' = s.readX t') ∧ (t = 31#5 → u.x = s.x) ∧ u = { s with turns := us, x := u.x }) ∧
    (∀ pc ws, s.turns = .load pc ws :: us → pc.extractLsb' 0 2 = 0b00#2 →
      step s = .next { s with turns := us, pc := pc, program := ws }) ∧
    (∀ pc ws, s.turns = .load pc ws :: us → pc.extractLsb' 0 2 ≠ 0b00#2 → step s = .refused .misalignedProgram)
end

