-- ==== Sys2Proof/Laws/Access.lean ====
section
/-! SUPPORT. The access check in the terms of the points of 40_sysreg_access.md R70: which points answer what. -/

namespace Sys2Proof.Machine

open Sys2Proof

variable {k : AccessKind} {p : Params} {i : Inputs}

/-- Undefined at the points (a), (b), (f), (i), (k). -/
theorem accessCheck_undefined_iff : accessCheck k p i = .undefined ↔
    i.el = .el0 ∨ PointB p i ∨ PointI p i ∨ PointF k p i ∨ PointK p i := by
  obtain ⟨el, _, _, _, _, _, _, _, _, _, _, _⟩ := i
  cases el <;>
    simp only [accessCheck, PointB, PointC, PointD, PointE, PointF, PointI, PointJ, PointK, PastEL2AtEL1, ClaimedByEL3,
      EarlyUndefined] <;> grind

/-- A trap to EL1 at the point (c). -/
theorem accessCheck_trap1_iff : accessCheck k p i = .trap .el1 ↔ PointC p i := by
  obtain ⟨el, _, _, _, _, _, _, _, _, _, _, _⟩ := i
  cases el <;> simp only [accessCheck, PointB, PointC, EarlyUndefined] <;> grind

/-- A trap to EL2 at the points (d), (e), (j). -/
theorem accessCheck_trap2_iff : accessCheck k p i = .trap .el2 ↔ PointD p i ∨ PointE k p i ∨ PointJ p i := by
  obtain ⟨el, _, _, _, _, _, _, _, _, _, _, _⟩ := i
  cases el <;>
    simp only [accessCheck, PointB, PointC, PointD, PointE, PointI, PointJ, EarlyUndefined] <;> grind

/-- A trap to EL3 at the points (g), (l), (n). -/
theorem accessCheck_trap3_iff : accessCheck k p i = .trap .el3 ↔ PointG k p i ∨ PointL p i ∨ PointN i := by
  obtain ⟨el, _, _, _, _, _, _, _, _, _, _, _⟩ := i
  cases el <;>
    simp only [accessCheck, PointB, PointC, PointD, PointE, PointG, PointI, PointJ, PointL, PointN, PastEL2AtEL1,
      ClaimedByEL3, EarlyUndefined] <;> grind

/-- Allow at the points (h), (m), (o). -/
theorem accessCheck_allow_iff : accessCheck k p i = .allow ↔ Allowed k p i := by
  obtain ⟨el, _, _, _, _, _, _, _, _, _, _, _⟩ := i
  cases el <;>
    simp only [accessCheck, Allowed, PointB, PointC, PointD, PointE, PointH, PointI, PointJ, PointM, PointO,
      PastEL2AtEL1, ClaimedByEL3, EarlyUndefined] <;> grind

/-- The verdict on an instruction is Allow exactly when the register is present and the access check allows. -/
theorem State.verdict_allow_iff {s : State} :
    s.verdict k = .allow ↔ s.params.featETE = true ∧ Allowed k s.params s.inputs := by
  unfold State.verdict
  split <;> simp_all [accessCheck_allow_iff]

end Sys2Proof.Machine
end

