-- ==== Sys2Proof/Laws/Decode.lean ====
section
/-! SUPPORT. The words of the two instructions, and the bytes they are stored as. -/

namespace Sys2Proof

/-- The word of an `MRS`: fixed bits and `Rt` (30_encoding.md R62). -/
theorem encode_mrs (t : RegNum) : encode (.mrsTrcconfigr t) = (0x6A98820#27 ++ t : InstrWord) := by
  revert t; decide

/-- The word of an `MSR` (30_encoding.md R63). -/
theorem encode_msr (t : RegNum) : encode (.msrTrcconfigr t) = (0x6A88820#27 ++ t : InstrWord) := by
  revert t; decide

/-- A word's bytes make the word again. -/
theorem wordOfBytes_wordBytes (w : InstrWord) :
    wordOfBytes (w.extractLsb' 0 8) (w.extractLsb' 8 8) (w.extractLsb' 16 8) (w.extractLsb' 24 8) = w := by
  unfold wordOfBytes
  ext i hi
  simp only [BitVec.getElem_append, BitVec.getElem_extractLsb']
  have : ∀ j : Nat, w.getLsbD j = if h : j < 32 then w[j] else false := fun j => by
    split
    · exact BitVec.getLsbD_eq_getElem ‹_›
    · exact BitVec.getLsbD_of_ge w j (by omega)
  grind

/-- Decoding a word's bytes is decoding the word. -/
theorem decodeBytes_wordBytes (w : InstrWord) (rest : List Byte) :
    decodeBytes (wordBytes w ++ rest) =
      match decodeWord w with
      | .ok i => .ok (i, rest)
      | .error e => .error e := by
  cases h : decodeWord w <;>
    simp only [wordBytes, List.cons_append, List.nil_append, decodeBytes, wordOfBytes_wordBytes, h]

end Sys2Proof
end

