-- ==== Sys2Proof/Laws/Fields.lean ====
section
/-! SUPPORT. One lemma for each function on the register: the bit a read returns, the cell a write or a reset leaves, the
bits of the masks, and the general-purpose registers after a write. -/

namespace Sys2Proof.Machine

open Sys2Proof

/-! ### X[t] -/

/-- A write to X0 to X30 is read back. -/
theorem State.readX_writeX_same (s : State) {t : RegNum} (v : Word) (h : t ≠ 31#5) : (s.writeX t v).readX t = v := by
  have ht : t.toNat < 31 := by
    have : t.toNat ≠ 31 := fun e => h (BitVec.eq_of_toNat_eq e)
    have := t.isLt
    omega
  simp [State.readX, State.writeX, ht]

/-- A write leaves every other register alone. -/
theorem State.readX_writeX_other (s : State) {t t' : RegNum} (v : Word) (h : t' ≠ t) :
    (s.writeX t v).readX t' = s.readX t' := by
  have hn : t.toNat ≠ t'.toNat := fun e => h (BitVec.eq_of_toNat_eq e.symm)
  unfold State.readX State.writeX
  by_cases ht : t.toNat < 31 <;> by_cases ht' : t'.toNat < 31 <;> simp [ht, ht', hn]

/-- A write to the zero register is discarded. -/
theorem State.writeX_zero (s : State) (v : Word) : s.writeX 31#5 v = s := rfl

/-- The zero register reads as 0. -/
theorem State.readX_zero (s : State) : s.readX 31#5 = 0#64 := rfl

/-- What `X[t]` reads depends on the registers only. Cite this rather than `rfl`: unifying two states is slow. -/
theorem State.readX_congr {s u : State} (h : u.x = s.x) (t : RegNum) : u.readX t = s.readX t := by
  unfold State.readX
  rw [h]

/-! ### Masks -/

theorem maskIf_getElem (b : Bool) (m : Word) (i : Nat) (h : i < 64) : (maskIf b m)[i] = (b && m[i]) := by
  cases b <;> simp [maskIf]

/-- `StoreMask` bit by bit: implemented, or a reserved bit built as storage. -/
theorem storeMask_getElem (p : Params) (i : Nat) (h : i < 64) :
    (storeMask p)[i] = ((implMask p)[i] || p.resStored[i]) := by
  simp only [storeMask, resMask, BitVec.getElem_or, BitVec.getElem_and, BitVec.getElem_not]
  cases (implMask p)[i] <;> simp

/-- A cell of an implemented field is storage. -/
theorem storeMask_of_implMask {p : Params} {i : Nat} {h : i < 64} (hi : (implMask p)[i] = true) :
    (storeMask p)[i] = true := by simp [storeMask_getElem, hi]

/-- `ImplMask` at the bits of QE. -/
theorem implMask_getElem_14 (p : Params) : (implMask p)[14] = (p.qsupp != 0b00#2) := by
  simp [implMask, maskIf_getElem]

theorem implMask_getElem_13 (p : Params) : (implMask p)[13] = (p.qsupp != 0b00#2) := by
  simp [implMask, maskIf_getElem]

/-- `ImplMask` at bit [15] and at the six on/off fields. -/
theorem implMask_getElem_15 (p : Params) : (implMask p)[15] = (p.vmidopt == 0b01#2) := by
  simp [implMask, maskIf_getElem]

theorem implMask_getElem_12 (p : Params) : (implMask p)[12] = p.retstack := by simp [implMask, maskIf_getElem]

theorem implMask_getElem_11 (p : Params) : (implMask p)[11] = (p.tssize != 0b00000#5) := by
  simp [implMask, maskIf_getElem]

theorem implMask_getElem_7 (p : Params) : (implMask p)[7] = (p.vmidsize != 0b00000#5) := by
  simp [implMask, maskIf_getElem]

theorem implMask_getElem_6 (p : Params) : (implMask p)[6] = (p.cidsize != 0b00000#5) := by
  simp [implMask, maskIf_getElem]

theorem implMask_getElem_4 (p : Params) : (implMask p)[4] = p.trccci := by simp [implMask, maskIf_getElem]

theorem implMask_getElem_3 (p : Params) : (implMask p)[3] = p.trcbb := by simp [implMask, maskIf_getElem]

/-- The bits of the three constant masks of the register's layout. -/
theorem layout_bits : ∀ j : Fin 64,
    (0x0001#64 : Word)[j] = decide (j.val = 0) ∧ (0x8000#64 : Word)[j] = decide (j.val = 15) ∧
      (0x00000000FFFFFFFF#64 : Word)[j] = decide (j.val < 32) := by decide

/-- `Res1Mask` bit by bit. -/
theorem res1Mask_getElem (p : Params) (i : Nat) (h : i < 64) :
    (res1Mask p)[i] = (decide (i = 0) || (decide (i = 15) && p.vmidopt == 0b10#2)) := by
  have hj := layout_bits ⟨i, h⟩
  simp only [Fin.getElem_fin] at hj
  simp only [res1Mask, BitVec.getElem_or, maskIf_getElem]
  rw [hj.1, hj.2.1, Bool.and_comm]

/-- No bit is both implemented and RES1 (10_state.md R35). -/
theorem res1Mask_of_implMask {p : Params} {i : Nat} {h : i < 64} (hi : (implMask p)[i] = true) :
    (res1Mask p)[i] = false := by
  rw [res1Mask_getElem]
  by_cases h0 : i = 0
  · subst h0; simp [implMask, maskIf_getElem] at hi
  · by_cases h15 : i = 15
    · subst h15; rw [implMask_getElem_15] at hi; simp at hi; simp [hi]
    · simp [h0, h15]

/-- Where QE is implemented its two cells are storage. -/
theorem storeMask_QE {p : Params} (hq : p.qsupp ≠ 0b00#2) {i : Nat} (h : i < 64) (hi : i = 13 ∨ i = 14) :
    (storeMask p)[i] = true := by
  rcases hi with rfl | rfl
  · exact storeMask_of_implMask ((implMask_getElem_13 p).trans (bne_iff_ne.2 hq))
  · exact storeMask_of_implMask ((implMask_getElem_14 p).trans (bne_iff_ne.2 hq))

/-! ### Reading -/

/-- `ReadValue` bit by bit (10_state.md R36). -/
theorem readValue_getElem (p : Params) (cells : Vector Cell 64) (draw : Word) (i : Nat) (h : i < 64) :
    (readValue p cells draw)[i] =
      if (storeMask p)[i] then cellBit draw[i] cells[i] else (res1Mask p)[i] := by
  simp [readValue]

/-- A Known storage cell is read as it stands. -/
theorem readValue_known {p : Params} {cells : Vector Cell 64} (draw : Word) {i : Nat} (h : i < 64) {b : Bool}
    (hs : (storeMask p)[i] = true) (hc : cells[i] = .known b) : (readValue p cells draw)[i] = b := by
  simp [readValue_getElem, hs, hc, cellBit]

/-- What an Unknown storage cell supplies is all that two reads of the same cells can differ in. -/
theorem readValue_draws_agree {p : Params} {cells : Vector Cell 64} (draw draw' : Word) {i : Nat} (h : i < 64)
    (hk : (storeMask p)[i] = true → cells[i] ≠ .unknown) :
    (readValue p cells draw)[i] = (readValue p cells draw')[i] := by
  rw [readValue_getElem, readValue_getElem]
  split
  · rename_i hs
    cases hc : cells[i] with
    | known b => rfl
    | unknown => exact absurd hc (hk hs)
  · rfl

/-! ### Writing -/

theorem storeCells_getElem (p : Params) (lanes : Word) (cells : Vector Cell 64) (v : Word) (i : Nat) (h : i < 64) :
    (storeCells p lanes cells v)[i] =
      if (storeMask p)[i] && lanes[i] then .known v[i] else cells[i] := by
  simp [storeCells]

/-- Only the two QE cells are spoiled. -/
theorem spoilQE_getElem (bad : Bool) (cells : Vector Cell 64) (i : Nat) (h : i < 64) :
    (spoilQE bad cells)[i] = if bad && (i == 13 || i == 14) then .unknown else cells[i] := by
  cases bad
  · simp [spoilQE]
  · simp only [spoilQE, if_true, Vector.getElem_set, Bool.true_and]
    by_cases h13 : 13 = i
    · subst h13; rfl
    · by_cases h14 : 14 = i
      · subst h14; rfl
      · simp [h13, h14, Ne.symm h13, Ne.symm h14]

/-- `WriteValue` cell by cell (10_state.md R37). -/
theorem writeValue_getElem (p : Params) (cells : Vector Cell 64) (v : Word) (i : Nat) (h : i < 64) :
    (writeValue p cells v)[i] =
      if qeReserved p v && (i == 13 || i == 14) then .unknown
      else if (storeMask p)[i] then .known v[i] else cells[i] := by
  have hones : (BitVec.allOnes 64)[i] = true := by simp only [BitVec.getElem_allOnes]
  rw [writeValue, spoilQE_getElem, storeCells_getElem, hones, Bool.and_true]

/-- `WriteValue32` cell by cell (41_external_access.md R81, R83). -/
theorem writeValue32_getElem (p : Params) (cells : Vector Cell 64) (v : BitVec 32) (i : Nat) (h : i < 64) :
    (writeValue32 p cells v)[i] =
      if qeReserved p (v.setWidth 64) && (i == 13 || i == 14) then .unknown
      else if (storeMask p)[i] && decide (i < 32) then .known (v.setWidth 64)[i] else cells[i] := by
  have hj := (layout_bits ⟨i, h⟩).2.2
  simp only [Fin.getElem_fin] at hj
  rw [writeValue32, spoilQE_getElem, storeCells_getElem, hj]

/-- The cells after a Trace unit reset (70_reset_and_hazards.md R100). -/
theorem resetCells_getElem (p : Params) (cells : Vector Cell 64) (i : Nat) (h : i < 64) :
    (resetCells p cells)[i] = if (storeMask p)[i] then .unknown else cells[i] := by
  simp [resetCells]

/-- A reserved QE value can be written only where QE is implemented. -/
theorem qsupp_of_qeReserved {p : Params} {v : Word} (h : qeReserved p v = true) : p.qsupp ≠ 0b00#2 := by
  simp only [qeReserved, Bool.and_eq_true, bne_iff_ne] at h
  exact h.1

/-! ### Legal -/

/-- An Unknown implemented cell makes the register not Legal (10_state.md R38 clause (a)). -/
theorem legal_false_of_unknown {p : Params} {cells : Vector Cell 64} (i : Fin 64) (hi : (implMask p)[i] = true)
    (hu : cells[i] = .unknown) : legal p cells = false := by
  have : legalProgrammed p cells = false := by
    simp only [legalProgrammed, decide_eq_false_iff_not, not_forall]
    exact ⟨i, hi, by simp [hu]⟩
  simp [legal, this]

/-- The option bit of an implemented field whose cell is Known. -/
theorem optionBit_known {p : Params} {cells : Vector Cell 64} {i : Fin 64} {b : Bool} (hi : (implMask p)[i] = true)
    (hc : cells[i] = .known b) : optionBit p cells i = b := by
  simp only [optionBit, hi, hc, if_true]
  cases b <;> rfl

/-- The option bit of a reserved bit is its architected value. -/
theorem optionBit_reserved {p : Params} {cells : Vector Cell 64} {i : Fin 64} (hi : (implMask p)[i] = false) :
    optionBit p cells i = (res1Mask p)[i] := by
  simp [optionBit, hi]

/-- QE of a register whose two QE cells are Known. -/
theorem qeValue_known {p : Params} {cells : Vector Cell 64} {hi lo : Bool} (h : p.qsupp ≠ 0b00#2)
    (h14 : cells[14] = .known hi) (h13 : cells[13] = .known lo) :
    qeValue p cells = BitVec.ofBool hi ++ BitVec.ofBool lo := by
  have h1 := optionBit_known (i := 14) ((implMask_getElem_14 p).trans (bne_iff_ne.2 h)) h14
  have h2 := optionBit_known (i := 13) ((implMask_getElem_13 p).trans (bne_iff_ne.2 h)) h13
  rw [qeValue, h1, h2]

theorem ofBool_pair_bits : ∀ a b : Bool,
    (BitVec.ofBool a ++ BitVec.ofBool b)[0] = b ∧ (BitVec.ofBool a ++ BitVec.ofBool b)[1] = a := by decide

/-- The QE field of a value, bit by bit. -/
theorem qeField_eq (v : Word) : BitVec.ofBool v[14] ++ BitVec.ofBool v[13] = v.extractLsb' 13 2 := by
  apply BitVec.eq_of_getLsbD_eq
  intro i hi
  have : i = 0 ∨ i = 1 := by omega
  rcases this with rfl | rfl <;>
    simp [BitVec.getLsbD_eq_getElem, (ofBool_pair_bits _ _).1, (ofBool_pair_bits _ _).2]

end Sys2Proof.Machine
end

