-- ==== Sys2Proof/Laws/PerInstr.lean ====
section
/-! SUPPORT. What is said of every instruction as syntax: its word holds the register number in `Rt`, its direction in
`L`, and the tuple of TRCCONFIGR in the five System register fields (30_encoding.md R60, R62, R63). -/

namespace Sys2Proof.Laws.WordFields

/-- The fields of the word of an instruction (30_encoding.md R60). -/
def Statement (i : Instr) : Prop :=
  fieldRt (encode i) = i.reg ∧ (encode i)[21] = (i.kind == .read) ∧ (encode i).extractLsb' 22 10 = 0b1101010100#10 ∧
  (encode i).extractLsb' 19 2 = trcconfigrTuple.op0 ∧ (encode i).extractLsb' 16 3 = trcconfigrTuple.op1 ∧
  (encode i).extractLsb' 12 4 = trcconfigrTuple.crn ∧ (encode i).extractLsb' 8 4 = trcconfigrTuple.crm ∧
  (encode i).extractLsb' 5 3 = trcconfigrTuple.op2

theorem mrsTrcconfigr (t : RegNum) : Statement (.mrsTrcconfigr t) := by
  revert t; unfold Statement; decide

theorem msrTrcconfigr (t : RegNum) : Statement (.msrTrcconfigr t) := by
  revert t; unfold Statement; decide

end Sys2Proof.Laws.WordFields
end

