-- ==== Sys2Proof/Laws/State.lean ====
section
/-! SUPPORT. One lemma for each field of State under each operation that writes the state, so that no proof unfolds a
record update. -/

namespace Sys2Proof.Machine

open Sys2Proof

variable (s : State)

@[simp] theorem State.writeX_params (t : RegNum) (v : Word) : (s.writeX t v).params = s.params := rfl
@[simp] theorem State.writeX_inputs (t : RegNum) (v : Word) : (s.writeX t v).inputs = s.inputs := rfl
@[simp] theorem State.writeX_cells (t : RegNum) (v : Word) : (s.writeX t v).cells = s.cells := rfl
@[simp] theorem State.writeX_pc (t : RegNum) (v : Word) : (s.writeX t v).pc = s.pc := rfl
@[simp] theorem State.writeX_exc (t : RegNum) (v : Word) : (s.writeX t v).exc = s.exc := rfl
@[simp] theorem State.writeX_program (t : RegNum) (v : Word) : (s.writeX t v).program = s.program := rfl
@[simp] theorem State.writeX_outcome (t : RegNum) (v : Word) : (s.writeX t v).outcome = s.outcome := rfl
@[simp] theorem State.writeX_extData (t : RegNum) (v : Word) : (s.writeX t v).extData = s.extData := rfl
@[simp] theorem State.writeX_controls (t : RegNum) (v : Word) : (s.writeX t v).controls = s.controls := rfl
@[simp] theorem State.writeX_turns (t : RegNum) (v : Word) : (s.writeX t v).turns = s.turns := rfl
@[simp] theorem State.writeX_draws (t : RegNum) (v : Word) : (s.writeX t v).draws = s.draws := rfl

@[simp] theorem State.drawn_params : (s.drawn).params = s.params := rfl
@[simp] theorem State.drawn_inputs : (s.drawn).inputs = s.inputs := rfl
@[simp] theorem State.drawn_cells : (s.drawn).cells = s.cells := rfl
@[simp] theorem State.drawn_x : (s.drawn).x = s.x := rfl
@[simp] theorem State.drawn_pc : (s.drawn).pc = s.pc := rfl
@[simp] theorem State.drawn_exc : (s.drawn).exc = s.exc := rfl
@[simp] theorem State.drawn_program : (s.drawn).program = s.program := rfl
@[simp] theorem State.drawn_outcome : (s.drawn).outcome = s.outcome := rfl
@[simp] theorem State.drawn_extData : (s.drawn).extData = s.extData := rfl
@[simp] theorem State.drawn_controls : (s.drawn).controls = s.controls := rfl
@[simp] theorem State.drawn_turns : (s.drawn).turns = s.turns := rfl
@[simp] theorem State.drawn_draws : (s.drawn).draws = s.draws + 1 := rfl

@[simp] theorem State.setCells_params (cells : Vector Cell 64) : (s.setCells cells).params = s.params := rfl
@[simp] theorem State.setCells_inputs (cells : Vector Cell 64) : (s.setCells cells).inputs = s.inputs := rfl
@[simp] theorem State.setCells_cells (cells : Vector Cell 64) : (s.setCells cells).cells = cells := rfl
@[simp] theorem State.setCells_x (cells : Vector Cell 64) : (s.setCells cells).x = s.x := rfl
@[simp] theorem State.setCells_pc (cells : Vector Cell 64) : (s.setCells cells).pc = s.pc := rfl
@[simp] theorem State.setCells_exc (cells : Vector Cell 64) : (s.setCells cells).exc = s.exc := rfl
@[simp] theorem State.setCells_program (cells : Vector Cell 64) : (s.setCells cells).program = s.program := rfl
@[simp] theorem State.setCells_outcome (cells : Vector Cell 64) : (s.setCells cells).outcome = s.outcome := rfl
@[simp] theorem State.setCells_extData (cells : Vector Cell 64) : (s.setCells cells).extData = s.extData := rfl
@[simp] theorem State.setCells_controls (cells : Vector Cell 64) : (s.setCells cells).controls = s.controls := rfl
@[simp] theorem State.setCells_turns (cells : Vector Cell 64) : (s.setCells cells).turns = s.turns := rfl
@[simp] theorem State.setCells_draws (cells : Vector Cell 64) : (s.setCells cells).draws = s.draws := rfl

@[simp] theorem State.finish_params : (s.finish).params = s.params := rfl
@[simp] theorem State.finish_inputs : (s.finish).inputs = s.inputs := rfl
@[simp] theorem State.finish_cells : (s.finish).cells = s.cells := rfl
@[simp] theorem State.finish_x : (s.finish).x = s.x := rfl
@[simp] theorem State.finish_pc : (s.finish).pc = s.pc + 4#64 := rfl
@[simp] theorem State.finish_exc : (s.finish).exc = s.exc := rfl
@[simp] theorem State.finish_program : (s.finish).program = s.program := rfl
@[simp] theorem State.finish_outcome : (s.finish).outcome = some .done := rfl
@[simp] theorem State.finish_extData : (s.finish).extData = s.extData := rfl
@[simp] theorem State.finish_controls : (s.finish).controls = s.controls := rfl
@[simp] theorem State.finish_turns : (s.finish).turns = s.turns := rfl
@[simp] theorem State.finish_draws : (s.finish).draws = s.draws := rfl

@[simp] theorem State.enter_params (o : PEOutcome) (l : ExcLevel) (y : BitVec 32) : (s.enter o l y).params = s.params := rfl
@[simp] theorem State.enter_inputs (o : PEOutcome) (l : ExcLevel) (y : BitVec 32) : (s.enter o l y).inputs = withLevel s.inputs l.toEL := rfl
@[simp] theorem State.enter_cells (o : PEOutcome) (l : ExcLevel) (y : BitVec 32) : (s.enter o l y).cells = s.cells := rfl
@[simp] theorem State.enter_x (o : PEOutcome) (l : ExcLevel) (y : BitVec 32) : (s.enter o l y).x = s.x := rfl
@[simp] theorem State.enter_pc (o : PEOutcome) (l : ExcLevel) (y : BitVec 32) : (s.enter o l y).pc = handlerAddr s.draws := rfl
@[simp] theorem State.enter_exc (o : PEOutcome) (l : ExcLevel) (y : BitVec 32) : (s.enter o l y).exc = setBank s.exc l ⟨y, s.pc⟩ := rfl
@[simp] theorem State.enter_program (o : PEOutcome) (l : ExcLevel) (y : BitVec 32) : (s.enter o l y).program = [] := rfl
@[simp] theorem State.enter_outcome (o : PEOutcome) (l : ExcLevel) (y : BitVec 32) : (s.enter o l y).outcome = some o := rfl
@[simp] theorem State.enter_extData (o : PEOutcome) (l : ExcLevel) (y : BitVec 32) : (s.enter o l y).extData = s.extData := rfl
@[simp] theorem State.enter_controls (o : PEOutcome) (l : ExcLevel) (y : BitVec 32) : (s.enter o l y).controls = s.controls := rfl
@[simp] theorem State.enter_turns (o : PEOutcome) (l : ExcLevel) (y : BitVec 32) : (s.enter o l y).turns = s.turns := rfl
@[simp] theorem State.enter_draws (o : PEOutcome) (l : ExcLevel) (y : BitVec 32) : (s.enter o l y).draws = s.draws + 1 := rfl

@[simp] theorem State.enterHalted_params (o : PEOutcome) : (s.enterHalted o).params = s.params := rfl
@[simp] theorem State.enterHalted_inputs (o : PEOutcome) : (s.enterHalted o).inputs = withLevel s.inputs (haltedLevel s.params s.inputs s.draws) := rfl
@[simp] theorem State.enterHalted_cells (o : PEOutcome) : (s.enterHalted o).cells = s.cells := rfl
@[simp] theorem State.enterHalted_x (o : PEOutcome) : (s.enterHalted o).x = s.x := rfl
@[simp] theorem State.enterHalted_pc (o : PEOutcome) : (s.enterHalted o).pc = handlerAddr s.draws := rfl
@[simp] theorem State.enterHalted_exc (o : PEOutcome) : (s.enterHalted o).exc = ⟨haltedBank .el1 s.draws, haltedBank .el2 s.draws, haltedBank .el3 s.draws⟩ := rfl
@[simp] theorem State.enterHalted_program (o : PEOutcome) : (s.enterHalted o).program = [] := rfl
@[simp] theorem State.enterHalted_outcome (o : PEOutcome) : (s.enterHalted o).outcome = some o := rfl
@[simp] theorem State.enterHalted_extData (o : PEOutcome) : (s.enterHalted o).extData = s.extData := rfl
@[simp] theorem State.enterHalted_controls (o : PEOutcome) : (s.enterHalted o).controls = s.controls := rfl
@[simp] theorem State.enterHalted_turns (o : PEOutcome) : (s.enterHalted o).turns = s.turns := rfl
@[simp] theorem State.enterHalted_draws (o : PEOutcome) : (s.enterHalted o).draws = s.draws + 1 := rfl

@[simp] theorem State.drawn_readX (t : RegNum) : (s.drawn).readX t = s.readX t := rfl
@[simp] theorem State.setCells_readX (cells : Vector Cell 64) (t : RegNum) : (s.setCells cells).readX t = s.readX t := rfl
@[simp] theorem State.finish_readX (t : RegNum) : (s.finish).readX t = s.readX t := rfl
@[simp] theorem State.enter_readX (o : PEOutcome) (l : ExcLevel) (y : BitVec 32) (t : RegNum) : (s.enter o l y).readX t = s.readX t := rfl
@[simp] theorem State.enterHalted_readX (o : PEOutcome) (t : RegNum) : (s.enterHalted o).readX t = s.readX t := rfl

/-- A Trace unit reset writes the cells and nothing else. -/
@[simp] theorem State.traceUnitReset_eq : s.traceUnitReset = s.setCells (resetCells s.params s.cells) := rfl

@[simp] theorem withLevel_el (i : Inputs) (el : EL) : (withLevel i el).el = el := rfl
@[simp] theorem withLevel_halted (i : Inputs) (el : EL) : (withLevel i el).halted = i.halted := rfl
@[simp] theorem withLevel_sdd (i : Inputs) (el : EL) : (withLevel i el).sdd = i.sdd := rfl
@[simp] theorem withLevel_ttaEL3 (i : Inputs) (el : EL) : (withLevel i el).ttaEL3 = i.ttaEL3 := rfl
@[simp] theorem withLevel_ttaEL2 (i : Inputs) (el : EL) : (withLevel i el).ttaEL2 = i.ttaEL2 := rfl
@[simp] theorem withLevel_ttaEL1 (i : Inputs) (el : EL) : (withLevel i el).ttaEL1 = i.ttaEL1 := rfl
@[simp] theorem withLevel_el2Enabled (i : Inputs) (el : EL) : (withLevel i el).el2Enabled = i.el2Enabled := rfl
@[simp] theorem withLevel_fgtEn (i : Inputs) (el : EL) : (withLevel i el).fgtEn = i.fgtEn := rfl
@[simp] theorem withLevel_hdfgrtrTrc (i : Inputs) (el : EL) : (withLevel i el).hdfgrtrTrc = i.hdfgrtrTrc := rfl
@[simp] theorem withLevel_hdfgwtrTrc (i : Inputs) (el : EL) : (withLevel i el).hdfgwtrTrc = i.hdfgwtrTrc := rfl
@[simp] theorem withLevel_idle (i : Inputs) (el : EL) : (withLevel i el).idle = i.idle := rfl
@[simp] theorem withLevel_el0ToEL2 (i : Inputs) (el : EL) : (withLevel i el).el0ToEL2 = i.el0ToEL2 := rfl

/-- The registers written by an exception are those of its level. -/
theorem bankOf_setBank_same (e : ExcRegs) (l : ExcLevel) (b : ExcBank) : bankOf (setBank e l b) l = b := by
  cases l <;> rfl

/-- The registers of the other levels are not written. -/
theorem bankOf_setBank_other (e : ExcRegs) (b : ExcBank) {l m : ExcLevel} (h : m ≠ l) :
    bankOf (setBank e l b) m = bankOf e m := by
  cases l <;> cases m <;> first | rfl | exact absurd rfl h

end Sys2Proof.Machine
end

