-- ==== Sys2Proof/Laws/SysReg.lean ====
section
/-! SUPPORT. What the two instructions can do, said once: what a fault leaves, the four ways an instruction answers a next
state, and how an instruction ends in terms of the verdict. -/

namespace Sys2Proof.Machine

open Sys2Proof

/-! ### Faults -/

/-- Everything a fault has in common, halted or not (60_exceptions.md R92, 10_state.md R42). -/
structure FaultFrame (s u : State) (o : PEOutcome) : Prop where
  params : u.params = s.params
  cells : u.cells = s.cells
  x : u.x = s.x
  inputs : u.inputs = withLevel s.inputs u.inputs.el
  program : u.program = []
  outcome : u.outcome = some o
  extData : u.extData = s.extData
  controls : u.controls = s.controls
  turns : u.turns = s.turns
  aligned : u.pc.extractLsb' 0 2 = 0b00#2

/-- A handler's address is 4-byte aligned. -/
theorem handlerAddr_aligned (n : Nat) : (handlerAddr n).extractLsb' 0 2 = 0b00#2 := by
  unfold handlerAddr
  generalize Config.freeSlot n = a
  exact BitVec.extractLsb'_append_eq_right

theorem State.enter_frame (s : State) (o : PEOutcome) (l : ExcLevel) (y : BitVec 32) :
    FaultFrame s (s.enter o l y) o :=
  ⟨rfl, rfl, rfl, rfl, rfl, rfl, rfl, rfl, rfl, handlerAddr_aligned _⟩

theorem State.enterHalted_frame (s : State) (o : PEOutcome) : FaultFrame s (s.enterHalted o) o :=
  ⟨rfl, rfl, rfl, rfl, rfl, rfl, rfl, rfl, rfl, handlerAddr_aligned _⟩

theorem State.takeUndefined_frame (s : State) : FaultFrame s s.takeUndefined .undefined := by
  unfold State.takeUndefined
  split
  · exact s.enterHalted_frame _
  · exact s.enter_frame _ _ _

theorem State.takeTrap_frame (s : State) (k : AccessKind) (t : RegNum) (l : ExcLevel) :
    FaultFrame s (s.takeTrap k t l) (.trap l trapCode) := by
  unfold State.takeTrap
  split
  · exact s.enterHalted_frame _
  · exact s.enter_frame _ _ _

/-- While not halted an Undefined exception is entered at its target. -/
theorem State.takeUndefined_running {s : State} (h : s.inputs.halted = false) :
    s.takeUndefined = s.enter .undefined (undefinedTarget s.inputs) (undefinedSyndrome s.draws) := by
  simp [State.takeUndefined, h]

/-- While not halted a trap is entered at its target, with its syndrome. -/
theorem State.takeTrap_running {s : State} (h : s.inputs.halted = false) (k : AccessKind) (t : RegNum)
    (l : ExcLevel) : s.takeTrap k t l = s.enter (.trap l trapCode) l (trapSyndrome k t) := by
  simp [State.takeTrap, h]

/-- The syndrome of a trap as one number (60_exceptions.md R91). -/
theorem trapSyndrome_eq (k : AccessKind) (t : RegNum) : trapSyndrome k t =
    0x62204008#32 ||| (t.setWidth 32 <<< 5) ||| (if k = .read then 1#32 else 0#32) := by
  cases k <;> (revert t; decide)

/-! ### The instructions -/

theorem exec_undefined {i : Instr} {s : State} (h : s.verdict i.kind = .undefined) :
    exec i s = .next s.takeUndefined := by
  cases i <;> simp_all [exec, Instr.kind, execMrsTrcconfigr, execMsrTrcconfigr]

theorem exec_trap {i : Instr} {s : State} {l : ExcLevel} (h : s.verdict i.kind = .trap l) :
    exec i s = .next (s.takeTrap i.kind i.reg l) := by
  cases i <;> simp_all [exec, Instr.kind, Instr.reg, execMrsTrcconfigr, execMsrTrcconfigr]

theorem exec_mrs_allow {t : RegNum} {s : State} (h : s.verdict .read = .allow) :
    exec (.mrsTrcconfigr t) s = .next (s.drawn.writeX t s.trcValue).finish := by
  simp [exec, execMrsTrcconfigr, h]

theorem exec_msr_allow {t : RegNum} {s : State} (h : s.verdict .write = .allow) :
    exec (.msrTrcconfigr t) s =
      if s.inputs.idle then .next (s.setCells (writeValue s.params s.cells (s.readX t))).finish
      else .refused .writeNotIdle := by
  simp [exec, execMsrTrcconfigr, h]

theorem exec_msr_idle {t : RegNum} {s : State} (h : s.verdict .write = .allow) (hi : s.inputs.idle = true) :
    exec (.msrTrcconfigr t) s = .next (s.setCells (writeValue s.params s.cells (s.readX t))).finish := by
  simp [exec_msr_allow h, hi]

/-- The four ways an instruction answers a next state. -/
inductive ExecNext (i : Instr) (s u : State) : Prop where
  | read (t : RegNum) (instr : i = .mrsTrcconfigr t) (allow : s.verdict .read = .allow)
      (next : u = (s.drawn.writeX t s.trcValue).finish)
  | write (t : RegNum) (instr : i = .msrTrcconfigr t) (allow : s.verdict .write = .allow) (idle : s.inputs.idle = true)
      (next : u = (s.setCells (writeValue s.params s.cells (s.readX t))).finish)
  | undefined (verdict : s.verdict i.kind = .undefined) (next : u = s.takeUndefined)
  | trap (l : ExcLevel) (verdict : s.verdict i.kind = .trap l) (next : u = s.takeTrap i.kind i.reg l)

/-- If an instruction answers a next state, it is one of the four. -/
theorem exec_next_cases {i : Instr} {s u : State} (h : exec i s = .next u) : ExecNext i s u := by
  cases hv : s.verdict i.kind with
  | undefined => exact .undefined hv (by simpa [exec_undefined hv] using h.symm)
  | trap l => exact .trap l hv (by simpa [exec_trap hv] using h.symm)
  | allow =>
    cases i with
    | mrsTrcconfigr t => exact .read t rfl hv (by simpa [exec_mrs_allow hv] using h.symm)
    | msrTrcconfigr t =>
      rw [exec_msr_allow hv] at h
      split at h
      · exact .write t rfl hv ‹_› (by simpa using h.symm)
      · cases h

/-- An instruction that ends Done read or wrote the register. -/
theorem exec_done_cases {i : Instr} {s u : State} (h : exec i s = .next u) (hd : u.outcome = some .done) :
    (∃ t, i = .mrsTrcconfigr t ∧ s.verdict .read = .allow ∧ u = (s.drawn.writeX t s.trcValue).finish) ∨
    (∃ t, i = .msrTrcconfigr t ∧ s.verdict .write = .allow ∧ s.inputs.idle = true ∧
      u = (s.setCells (writeValue s.params s.cells (s.readX t))).finish) := by
  cases exec_next_cases h with
  | read t hi ha hn => exact .inl ⟨t, hi, ha, hn⟩
  | write t hi ha hidle hn => exact .inr ⟨t, hi, ha, hidle, hn⟩
  | undefined _ hn => subst hn; simp [s.takeUndefined_frame.outcome] at hd
  | trap l _ hn => subst hn; simp [(s.takeTrap_frame _ _ l).outcome] at hd

/-- What a completed `MRS` leaves. -/
theorem exec_mrs_done {t : RegNum} {s u : State} (h : exec (.mrsTrcconfigr t) s = .next u)
    (hd : u.outcome = some .done) : s.verdict .read = .allow ∧ u = (s.drawn.writeX t s.trcValue).finish := by
  rcases exec_done_cases h hd with ⟨t', hi, ha, hn⟩ | ⟨t', hi, _⟩
  · cases hi; exact ⟨ha, hn⟩
  · cases hi

/-- What a completed `MSR` leaves. -/
theorem exec_msr_done {t : RegNum} {s u : State} (h : exec (.msrTrcconfigr t) s = .next u)
    (hd : u.outcome = some .done) :
    s.verdict .write = .allow ∧ s.inputs.idle = true ∧
      u = (s.setCells (writeValue s.params s.cells (s.readX t))).finish := by
  rcases exec_done_cases h hd with ⟨t', hi, _⟩ | ⟨t', hi, ha, hidle, hn⟩
  · cases hi
  · cases hi; exact ⟨ha, hidle, hn⟩

/-- What a completed `MRS` leaves, field by field. -/
structure ReadFrame (t : RegNum) (s u : State) : Prop where
  value : t ≠ 31#5 → u.readX t = readValue s.params s.cells (Config.freeBits s.draws)
  other : ∀ t', t' ≠ t → u.readX t' = s.readX t'
  params : u.params = s.params
  inputs : u.inputs = s.inputs
  cells : u.cells = s.cells
  draws : u.draws = s.draws + 1
  program : u.program = s.program

/-- What a completed `MSR` leaves, field by field. -/
structure WriteFrame (t : RegNum) (s u : State) : Prop where
  cells : u.cells = writeValue s.params s.cells (s.readX t)
  params : u.params = s.params
  inputs : u.inputs = s.inputs
  x : u.x = s.x
  readX : ∀ t', u.readX t' = s.readX t'
  draws : u.draws = s.draws
  program : u.program = s.program

theorem exec_mrs_frame {t : RegNum} {s u : State} (h : exec (.mrsTrcconfigr t) s = .next u)
    (hd : u.outcome = some .done) : ReadFrame t s u := by
  obtain ⟨_, rfl⟩ := exec_mrs_done h hd
  refine ⟨fun ht => ?_, fun t' ht => ?_, rfl, rfl, rfl, rfl, rfl⟩
  · rw [State.finish_readX, State.readX_writeX_same _ _ ht, State.trcValue]
  · rw [State.finish_readX, State.readX_writeX_other _ _ ht, State.drawn_readX]

theorem exec_msr_frame {t : RegNum} {s u : State} (h : exec (.msrTrcconfigr t) s = .next u)
    (hd : u.outcome = some .done) : WriteFrame t s u := by
  obtain ⟨_, _, rfl⟩ := exec_msr_done h hd
  exact ⟨rfl, rfl, rfl, rfl, fun _ => rfl, rfl, rfl⟩

/-- An instruction that does not end Done left a fault's frame. -/
theorem exec_fault_frame {i : Instr} {s u : State} (h : exec i s = .next u) (hd : u.outcome ≠ some .done) :
    ∃ o, FaultFrame s u o := by
  cases exec_next_cases h with
  | read t _ _ hn => subst hn; exact absurd rfl hd
  | write t _ _ _ hn => subst hn; exact absurd rfl hd
  | undefined _ hn => subst hn; exact ⟨_, s.takeUndefined_frame⟩
  | trap l _ hn => subst hn; exact ⟨_, s.takeTrap_frame _ _ l⟩

/-- An instruction ends Undefined exactly when the verdict is Undefined. -/
theorem endsWith_undefined_iff_verdict {i : Instr} {s : State} :
    EndsWith i s .undefined ↔ s.verdict i.kind = .undefined := by
  constructor
  · rintro ⟨u, h, ho⟩
    cases exec_next_cases h with
    | read _ _ _ hn => subst hn; simp at ho
    | write _ _ _ _ hn => subst hn; simp at ho
    | undefined hv _ => exact hv
    | trap l _ hn => subst hn; simp [(s.takeTrap_frame _ _ l).outcome] at ho
  · exact fun h => ⟨_, exec_undefined h, s.takeUndefined_frame.outcome⟩

/-- An instruction ends in a trap to a level exactly when the verdict is that trap. -/
theorem endsWith_trap_iff_verdict {i : Instr} {s : State} {l : ExcLevel} :
    EndsWith i s (.trap l 0x18#6) ↔ s.verdict i.kind = .trap l := by
  constructor
  · rintro ⟨u, h, ho⟩
    cases exec_next_cases h with
    | read _ _ _ hn => subst hn; simp at ho
    | write _ _ _ _ hn => subst hn; simp at ho
    | undefined _ hn => subst hn; simp [s.takeUndefined_frame.outcome] at ho
    | trap l' hv hn =>
      subst hn
      simp only [(s.takeTrap_frame _ _ l').outcome, Option.some.injEq, PEOutcome.trap.injEq] at ho
      rw [hv, ho.1]
  · exact fun h => ⟨_, exec_trap h, (s.takeTrap_frame _ _ l).outcome⟩

end Sys2Proof.Machine
end

