-- ==== Sys2Proof/Laws/Step.lean ====
section
/-! SUPPORT. What a step can do, said once: the PE runs an instruction, or the agent of the first turn moves. -/

namespace Sys2Proof.Machine

open Sys2Proof

/-- The PE moves: no turn is listed, or its turn is first; `us` are the turns that remain. -/
def PEMoves (s : State) (us : List Turn) : Prop := (s.turns = [] ∧ us = []) ∨ s.turns = .pe :: us

theorem PEMoves.first {s : State} {us : List Turn} (h : PEMoves s us) : s.turns = [] ∨ s.turns.head? = some .pe := by
  rcases h with ⟨h, _⟩ | h
  · exact .inl h
  · exact .inr (by simp [h])

/-- The ways a step answers a next state. -/
inductive StepNext (s u : State) : Prop where
  | pe (w : InstrWord) (ws : List InstrWord) (us : List Turn) (i : Instr) (moves : PEMoves s us)
      (head : s.program = w :: ws) (decoded : decodeWord w = .ok i)
      (next : exec i { s with program := ws, turns := us } = .next u)
  | extRead (a : ExtAccess) (us : List Turn) (turn : s.turns = .extRead a :: us)
      (admitted : extRefusal s.params a = none)
      (next : u = { s with turns := us, draws := s.draws + 1, extData := some (s.trcValue.setWidth 32) })
  | extWrite (a : ExtAccess) (v : BitVec 32) (us : List Turn) (turn : s.turns = .extWrite a v :: us)
      (admitted : extRefusal s.params a = none) (idle : s.inputs.idle = true)
      (next : u = { s with turns := us, cells := writeValue32 s.params s.cells v })
  | traceUnitReset (us : List Turn) (turn : s.turns = .traceUnitReset :: us)
      (next : u = { s with turns := us, cells := resetCells s.params s.cells })
  | traceRead (us : List Turn) (c : TraceControls) (turn : s.turns = .traceRead :: us)
      (next : u = { s with turns := us, controls := some c })
  | inputs (i : Inputs) (us : List Turn) (turn : s.turns = .inputs i :: us)
      (consistent : inputsConsistent s.params i = true) (next : u = { s with turns := us, inputs := i })
  | setX (t : RegNum) (v : Word) (us : List Turn) (turn : s.turns = .setX t v :: us)
      (next : u = ({ s with turns := us } : State).writeX t v)
  | load (pc : Word) (ws : List InstrWord) (us : List Turn) (turn : s.turns = .load pc ws :: us)
      (aligned : pc.extractLsb' 0 2 = 0b00#2) (next : u = { s with turns := us, pc := pc, program := ws })

/-- If the PE's step answers a next state, it ran the decoded head of its program. -/
theorem peStep_next_cases {s u : State} (h : peStep s = .next u) :
    ∃ w ws i, s.program = w :: ws ∧ decodeWord w = .ok i ∧ exec i { s with program := ws } = .next u := by
  unfold peStep at h
  cases hp : s.program with
  | nil => simp [hp, fetch] at h
  | cons w ws =>
    cases hd : decodeWord w with
    | error e => simp [hp, hd, fetch] at h
    | ok i => exact ⟨w, ws, i, rfl, hd, by simpa [hp, hd, fetch] using h⟩

/-- If a step answers a next state, it is one of `StepNext`. -/
theorem step_next_cases {s u : State} (h : step s = .next u) : StepNext s u := by
  unfold step at h
  split at h
  · rename_i ht
    obtain ⟨w, ws, i, hp, hd, hx⟩ := peStep_next_cases h
    refine .pe w ws [] i (.inl ⟨ht, rfl⟩) hp hd ?_
    rw [← ht]
    exact hx
  · rename_i t us ht
    cases t with
    | pe =>
      obtain ⟨w, ws, i, hp, hd, hx⟩ := peStep_next_cases h
      exact .pe w ws us i (.inr ht) hp hd hx
    | extRead a =>
      simp only [runTurn, State.extRead] at h
      split at h
      · cases h
      · rename_i ha
        cases h
        exact .extRead a us ht ha rfl
    | extWrite a v =>
      simp only [runTurn, State.extWrite] at h
      split at h
      · cases h
      · rename_i ha
        split at h
        · rename_i hi
          cases h
          exact .extWrite a v us ht ha hi rfl
        · cases h
    | traceUnitReset =>
      cases h
      exact .traceUnitReset us ht rfl
    | traceRead =>
      simp only [runTurn, State.traceRead] at h
      split at h
      · cases h
      · split at h
        · rename_i c _
          cases h
          exact .traceRead us c ht rfl
        · cases h
    | inputs i =>
      simp only [runTurn, State.supply] at h
      split at h
      · rename_i hc
        cases h
        exact .inputs i us ht hc rfl
      · cases h
    | setX t v =>
      cases h
      exact .setX t v us ht rfl
    | load pc ws =>
      simp only [runTurn, State.load] at h
      split at h
      · rename_i ha
        cases h
        exact .load pc ws us ht ha rfl
      · cases h

/-- When an external access is admitted. -/
theorem extRefusal_none_iff {p : Params} {a : ExtAccess} : extRefusal p a = none ↔
    p.featETE = true ∧ a.ok = true ∧ a.addr = extAddress p ∧ a.bits = 32 := by
  unfold extRefusal extShapeOk
  split
  · grind
  · split <;> grind

/-- What an admitted external read returns. -/
theorem State.extRead_data {s w : State} {a : ExtAccess} (h : s.extRead a = .next w) :
    w.extData = some ((readValue s.params s.cells (Config.freeBits s.draws)).setWidth 32) := by
  unfold State.extRead at h
  split at h
  · cases h
  · cases h; rfl

/-- When the PE moves, with no turn listed or with its own first, the step is the PE's. -/
theorem step_pe {s : State} (h : s.turns = [] ∨ s.turns.head? = some .pe) :
    step s = peStep { s with turns := s.turns.tail } := by
  rcases h with h | h
  · simp only [step, h, List.tail_nil]
    rw [← h]
  · cases hu : s.turns with
    | nil => simp [hu] at h
    | cons u us =>
      obtain rfl : u = .pe := by simpa [hu] using h
      simp only [step, hu, runTurn, List.tail_cons]

end Sys2Proof.Machine
end

