-- ==== Sys2Proof/Tests/Slice0.lean ====
section
/-! SUPPORT. The model's own tests. Expected values are taken from spec/: the words and vectors of 95_test_vectors.md and
the encodings of 30_encoding.md. A theorem `witness_<Statement>` shows a state and operands that meet the hypotheses of
the statement Obligations.<Statement>. -/

namespace Sys2Proof.Tests

open Sys2Proof Sys2Proof.Machine

-- Evaluating 64 cells one by one is deep recursion for `decide`.
set_option maxRecDepth 20000

/-! ### Helpers -/

/-- The machine at reset with its inputs replaced. -/
def withInputs (i : Inputs) : State := { State.reset with inputs := i }

/-- The inputs at EL1, nothing trapped, Idle (95_test_vectors.md A3). -/
def atEL1 : Inputs := { Inputs.start with el := .el1 }

/-- A machine of the set FULL whose next turn is given. -/
def turning (u : Turn) : State := { State.reset with turns := [u] }

/-- An admitted shape of access to the External register of the set FULL. -/
def admitted : ExtAccess := ⟨0x010, 32, true⟩

/-- A state that holds a value in X0. -/
def withX0 (v : Word) : State := State.reset.writeX 0 v

/-- Cells of the set FULL after a write of a value. -/
def written (v : Word) : Vector Cell 64 := writeValue .full State.reset.cells v

/-- `FULL` with every reserved bit storage. -/
def allStored : Params := { Params.full with resStored := resMask .full }

/-- `MIN` of 95_test_vectors.md. -/
def min : Params :=
  { Params.full with vmidopt := 0, qsupp := 0, retstack := false, tssize := 0, vmidsize := 0, cidsize := 0,
                     trccci := false, trcbb := false }

/-! ### Well-formedness: what each check refuses -/

/-- `P_ResStored` may not name an implemented bit (10_state.md R34). -/
theorem test_params_overlap_refused : { Params.full with resStored := 0x8#64 }.wellFormed = false := by decide

/-- EL3 needs an implementation with EL3 (00_scope.md R8). -/
theorem test_inputs_without_EL3_refused : Inputs.start.wellFormed { Params.full with haveEL3 := false } = false := by decide

/-- All 32 register numbers are accepted (30_encoding.md R65): the operand's type leaves no ill-formed instruction. -/
theorem test_every_register_number_accepted : ∀ t : RegNum,
    (Instr.mrsTrcconfigr t).wellFormed = true ∧ (Instr.msrTrcconfigr t).wellFormed = true := by decide

theorem test_full_wellFormed : Params.full.wellFormed = true ∧ allStored.wellFormed = true := by decide

/-! ### Decoding, from words written out bit by bit (30_encoding.md R60, R62, R63) -/

/-- `MRS X30`: fixed 1101010100, L 1, op0 10, op1 001, CRn 0000, CRm 0100, op2 000, Rt 11110. -/
theorem test_decode_mrs_bits :
    decodeWord 0b11010101001100010000010000011110#32 = .ok (.mrsTrcconfigr 30) := by decide

/-- `MSR X25`: the same with L 0 and Rt 11001; its bytes are 19 04 11 D5 (95_test_vectors.md 2.1). -/
theorem test_decode_msr_bits :
    decodeWord 0b11010101000100010000010000011001#32 = .ok (.msrTrcconfigr 25) ∧
    decodeBytes [0x19#8, 0x04#8, 0x11#8, 0xD5#8, 0xAA#8] = .ok (.msrTrcconfigr 25, [0xAA#8]) := by decide

/-- The near misses of 95_test_vectors.md 2.1, and too few bytes. -/
theorem test_decode_near_misses :
    ([0xD5310420#32, 0xD5310500#32, 0xD5310000#32, 0xD5311400#32, 0xD5300400#32, 0xD5320400#32, 0xD5390400#32,
      0xD5710400#32, 0x55310400#32].all fun w => decodeWord w == .error (.notInScope w)) = true ∧
    decodeBytes [0x19#8, 0x04#8, 0x11#8] = .error .truncated := by decide

/-- The encoder gives the words of 30_encoding.md R62 and R63. -/
theorem test_encode_words :
    encode (.mrsTrcconfigr 31) = 0xD531041F#32 ∧ encode (.msrTrcconfigr 25) = 0xD5110419#32 := by decide

/-! ### The access check (95_test_vectors.md 2.5) -/

/-- Every assignment of the eleven Booleans of 95_test_vectors.md 2.5, the fourth and eleventh of a set being the
parameters `P_HaveEL3` and `P_EL3PrioSDD`. -/
def assignments (el : EL) : List (Params × Inputs) :=
  let b := [false, true]
  b.flatMap fun b1 => b.flatMap fun b2 => b.flatMap fun b3 => b.flatMap fun b4 => b.flatMap fun b5 =>
  b.flatMap fun b6 => b.flatMap fun b7 => b.flatMap fun b8 => b.flatMap fun b9 => b.flatMap fun b10 =>
  b.map fun b11 =>
    ({ Params.full with haveEL3 := b4, el3PrioSDD := b11 }, ⟨el, b1, b2, b3, b5, b6, b7, b8, b9, b10, true, false⟩)

/-- How many of them give a verdict. -/
def count (k : AccessKind) (el : EL) (v : Verdict) : Nat :=
  ((assignments el).filter fun a => accessCheck k a.1 a.2 == v).length

/-- The checksum of 95_test_vectors.md 2.5 at EL1. -/
theorem test_check_counts_EL1 :
    [count .read .el1 .undefined, count .read .el1 (.trap .el1), count .read .el1 (.trap .el2),
     count .read .el1 (.trap .el3), count .read .el1 .allow] = [86, 992, 342, 132, 496] := by decide

/-- The checksum of 95_test_vectors.md 2.5 at EL2, for writes. -/
theorem test_check_counts_EL2 :
    [count .write .el2 .undefined, count .write .el2 (.trap .el1), count .write .el2 (.trap .el2),
     count .write .el2 (.trap .el3), count .write .el2 .allow] = [96, 0, 992, 192, 768] := by decide

/-- Vectors A8 to A11: the fine-grained bits tell a read from a write. -/
theorem test_check_directions :
    let i : Inputs := { atEL1 with el2Enabled := true, fgtEn := true }
    accessCheck .read .full { i with hdfgrtrTrc := true } = .trap .el2 ∧
    accessCheck .write .full { i with hdfgrtrTrc := true } = .allow ∧
    accessCheck .write .full { i with hdfgwtrTrc := true } = .trap .el2 ∧
    accessCheck .read .full { i with hdfgwtrTrc := true } = .allow := by decide

/-! ### The register (95_test_vectors.md 2.2 to 2.4, 2.7) -/

/-- The masks of 95_test_vectors.md 2.2. -/
theorem test_masks :
    implMask .full = 0xF8D8#64 ∧ res1Mask .full = 0x0001#64 ∧ resMask .full = 0xFFFFFFFFFFFF0727#64 ∧
    implMask min = 0#64 ∧ implMask { Params.full with vmidopt := 0b10 } = 0x78D8#64 ∧
    res1Mask { Params.full with vmidopt := 0b10 } = 0x8001#64 := by decide

/-- Vectors W12, W14, W15, W23, W26, W28 of 95_test_vectors.md 2.3: the value read back, whatever the draw supplies. -/
theorem test_write_then_read :
    readValue .full (written 0xFFFFFFFFFFFFFFFF) 0 = 0xF8D9#64 ∧ readValue .full (written 0x98D1) 0 = 0x98D1#64 ∧
    readValue min (writeValue min State.reset.cells 0xFFFFFFFFFFFFFFFF) 0 = 1#64 ∧
    (let p := { Params.full with vmidopt := 0b10#2 }
     readValue p (writeValue p State.reset.cells 0x1801) 0 = 0x9801#64) ∧
    (let p := { Params.full with trcbb := false }
     readValue p (writeValue p State.reset.cells 0x6009) 0 = 0x6001#64) ∧
    readValue allStored (writeValue allStored State.reset.cells 0) 0 = 0#64 := by decide

/-- Vectors W7 and W19: the QE bits of a reserved value are drawn, the others are not. -/
theorem test_reserved_QE_is_drawn :
    readValue .full (written 0x4001) 0 = 1#64 ∧ readValue .full (written 0x4001) (BitVec.allOnes 64) = 0x6001#64 ∧
    (let p := { Params.full with qsupp := 0b10#2 }
     (writeValue p State.reset.cells 0x2001)[13] = .unknown) := by decide

/-- The Legal column of W2, W7, W8, W9, W13, W28, W30, W31, and of Z1, Z2. -/
theorem test_legal :
    legal .full (written 1) = true ∧ legal .full (written 0x4001) = false ∧ legal .full (written 0x9) = true ∧
    legal .full (written 0x2009) = false ∧ legal .full (written 0xFFFFFFFFFFFF0727) = true ∧
    legal allStored (writeValue allStored State.reset.cells 0) = false ∧
    legal allStored (writeValue allStored State.reset.cells 0xFFFFFFFFFFFF0727) = false ∧
    legal allStored (writeValue allStored State.reset.cells 0x1801) = true ∧
    legal .full (resetCells .full (written 0x98D1)) = false ∧ legal min (resetCells min State.reset.cells) = true := by
  decide

/-- Vectors T2, T6, T7 and T9 of 95_test_vectors.md 2.4. -/
theorem test_trace_controls :
    traceControls .full (written 0x98D1) =
      some ⟨.usePROCID, .disabled, .disabled, .enabled, .enabled, .enabled, .enabled, .enabled, .disabled⟩ ∧
    traceControls .full (written 0x2009) = none ∧
    traceControls min (writeValue min State.reset.cells 1) =
      some ⟨.useVMID, .notControlled, .notControlled, .notControlled, .notControlled, .notControlled, .notControlled,
        .notControlled, .notControlled⟩ ∧
    (let p := { Params.full with vmidopt := 0b11#2 }
     (traceControls p (writeValue p State.reset.cells 1)).map (·.vctxSelect) = some .noMeaning) := by decide

/-! ### One step -/

/-- What the fields of a next state hold, `none` when there is no next state. -/
def field {α : Type} (f : State → α) : Host.Outcome State Fault Refusal → Option α
  | .next s => some (f s)
  | _ => none

/-- The refusal of a step, if it refuses. -/
def refusal : Host.Outcome State Fault Refusal → Option Refusal
  | .refused r => some r
  | _ => none

/-- The worked example of 40_sysreg_access.md R71: the word 0xD5310401 reads 0x1801 into X1. -/
theorem test_mrs_worked_example :
    field (·.readX 1) (step ({ State.reset with cells := written 0x1801 }.withFetchWord 32 0xD5310401)) =
      some 0x1801#64 := by decide

/-- `MRS XZR` writes no register (40_sysreg_access.md R71, corner case 1), and the pc advances by 4. -/
theorem test_mrs_xzr :
    field (fun s => (s.x.toList, s.pc)) (step (State.reset.withFetchWord 32 0xD531041F)) =
      some (State.reset.x.toList, 4#64) := by decide

/-- The worked example of 40_sysreg_access.md R72: X0 = 0xC1 is written, with VMID = 1 and CID = 1. -/
theorem test_msr_worked_example :
    field (fun s => readValue s.params s.cells 0) (step ((withX0 0xC1).withFetchWord 32 0xD5110400)) =
      some 0xC1#64 := by decide

/-- Program 3 of 95_test_vectors.md: the trapped write leaves TRCCONFIGR, and the syndrome recorded is 0x62204008. -/
theorem test_msr_trapped :
    field (fun s => (s.cells.toList, s.exc.el1.syndrome, s.outcome))
      (exec (.msrTrcconfigr 0) (withInputs { atEL1 with ttaEL1 := true, idle := false })) =
      some (State.reset.cells.toList, 0x62204008#32, some (.trap .el1 0x18#6)) := by decide

/-- Program 5: a write while not Idle is refused; vector O3: a read is not. -/
theorem test_write_while_not_idle :
    refusal (exec (.msrTrcconfigr 0) (withInputs { Inputs.start with idle := false })) = some .writeNotIdle ∧
    field (·.outcome) (exec (.mrsTrcconfigr 0) (withInputs { Inputs.start with idle := false })) =
      some (some .done) := by decide

/-- The syndromes of 95_test_vectors.md 2.9. -/
theorem test_syndromes :
    trapSyndrome .write 0 = 0x62204008#32 ∧ trapSyndrome .read 1 = 0x62204029#32 ∧
    trapSyndrome .write 25 = 0x62204328#32 ∧ trapSyndrome .read 31 = 0x622043E9#32 := by decide

/-- Vectors X2, X6 and X7 of 95_test_vectors.md 2.8. -/
theorem test_external_view :
    field (·.extData) (step { turning (.extRead admitted) with cells := written 0x98D1 }) =
      some (some 0x98D1#32) ∧
    field (fun s => readValue s.params s.cells 0) (step (turning (.extWrite admitted 0xFFFFFFFF))) =
      some 0xF8D9#64 ∧
    refusal (step (turning (.extRead ⟨0x012, 32, true⟩))) = some .extShape ∧
    refusal (step (turning (.extRead ⟨0x010, 16, true⟩))) = some .extShape := by decide

/-- Nothing runs at reset until a program is placed (log 8). -/
theorem test_reset_has_no_program : step State.reset = .fault .programEnded := rfl

/-- A table word is decoded through its bytes. -/
theorem test_table_word : decodeTableWord 32 0xD5110419 = some (.msrTrcconfigr 25) ∧
    decodeTableWord 32 0xD5110519 = none := by decide

/-! ### Witnesses: the hypotheses of the statements can be met, and each clause at a value of its own -/

theorem witness_EncodeThenDecodeGivesInstruction : (Instr.mrsTrcconfigr 31).wellFormed = true := by decide

theorem witness_OnlyEncodedWordsDecode :
    decodeWord 0xD5310400#32 = .ok (.mrsTrcconfigr 0) ∧ ∀ i, encode i ≠ 0#32 := by
  refine ⟨by decide, fun i => ?_⟩
  cases i with
  | mrsTrcconfigr t => revert t; decide
  | msrTrcconfigr t => revert t; decide

/-- A program of one instruction, with no turn listed and with the PE's turn listed. -/
theorem witness_StepRunsDecodedInstruction :
    let s : State := { State.reset with program := [0xD5110400#32] }
    s.program = 0xD5110400#32 :: [] ∧ decodeWord 0xD5110400#32 = .ok (.msrTrcconfigr 0) ∧ s.turns = [] ∧
    ({ s with turns := [.pe, .traceRead] } : State).turns = .pe :: [.traceRead] := by decide

/-- No turn listed, or the PE's turn first; an empty program, or one whose head is neither instruction. -/
theorem witness_StepStopsWithoutAnInstruction :
    State.reset.turns = [] ∧ (turning .pe).turns.head? = some .pe ∧ (turning .pe).program = [] ∧
    ({ turning .pe with program := [0#32] } : State).program = 0#32 :: [] ∧ ∀ i, decodeWord 0#32 ≠ .ok i :=
  ⟨rfl, rfl, rfl, rfl, fun i h => by cases h⟩

theorem witness_PlacedWordRunsNext : decodeTableWord 32 0xD531041F = some (.mrsTrcconfigr 31) := by decide

/-- The register is present at reset, and it may be absent. -/
theorem witness_TrapToEL1ExactlyWhen : State.reset.params.featETE = true := rfl
theorem witness_TrapToEL2ExactlyWhen : State.reset.params.featETE = true := rfl
theorem witness_TrapToEL3ExactlyWhen : State.reset.params.featETE = true := rfl

theorem witness_AbsentRegisterIsUndefined :
    ({ State.reset with params := { Params.full with featETE := false } } : State).params.featETE = false := rfl

/-- Two reads of different registers over different contents. -/
theorem witness_OutcomeIgnoresRegisterAndOperand :
    (Instr.mrsTrcconfigr 1).kind = (Instr.mrsTrcconfigr 2).kind ∧ State.reset.params = (withX0 5).params ∧
    State.reset.inputs = (withX0 5).inputs := ⟨rfl, rfl, rfl⟩

theorem witness_EL0NeverCompletes : (withInputs { Inputs.start with el := .el0 }).inputs.el = .el0 := rfl

/-- Vectors A19 and A20. -/
theorem witness_EL3PriorityMattersOnlyWhenHalted :
    let i : Inputs := { atEL1 with halted := true, sdd := true, ttaEL3 := true, ttaEL1 := true }
    accessCheck .read { Params.full with el3PrioSDD := true } i ≠
      accessCheck .read { Params.full with el3PrioSDD := false } i := by decide

/-- A state at EL1 whose accesses trap to EL1. -/
def trapping : State := withInputs { atEL1 with ttaEL1 := true }

theorem witness_HandlerTrapsAgain :
    trapping.inputs.halted = false ∧
    (∃ u, exec (.mrsTrcconfigr 0) trapping = .next u ∧ u.outcome = some (.trap .el1 0x18#6)) ∧
    ¬PointE .read trapping.params trapping.inputs := by
  refine ⟨rfl, ⟨_, rfl, rfl⟩, fun h => ?_⟩
  have : trapping.inputs.el2Enabled = true := h.2.2.2.2.1
  cases this

/-- The points (o), (m) and (h) each allow an access. -/
theorem witness_MrsCompletes :
    State.reset.params.featETE = true ∧ Allowed .read Params.full Inputs.start ∧
    Allowed .read Params.full { Inputs.start with el := .el2 } ∧ Allowed .read Params.full atEL1 :=
  ⟨rfl, .inr (.inr ⟨rfl, rfl⟩),
    .inr (.inl (by simp [PointM, PointI, PointJ, ClaimedByEL3, EarlyUndefined, Inputs.start])),
    .inl (by simp [PointH, PastEL2AtEL1, PointB, PointC, PointD, PointE, ClaimedByEL3, EarlyUndefined, atEL1,
      Inputs.start])⟩

/-- The boundary operands of the clauses on `t`, and a reserved and a permitted QE value. -/
theorem witness_MsrCompletes :
    State.reset.params.featETE = true ∧ Allowed .write State.reset.params State.reset.inputs ∧
    State.reset.inputs.idle = true ∧ qeReserved .full ((withX0 0x4001).readX 0) = true ∧
    qeReserved .full ((withX0 0x4001).readX 31) = false ∧ (storeMask .full)[15] = true ∧
    (storeMask .full)[0] = false := by
  refine ⟨rfl, .inr (.inr ⟨rfl, rfl⟩), rfl, ?_⟩
  decide

theorem witness_OnlyWritesWhileNotIdleAreRefused :
    let s := withInputs { Inputs.start with idle := false }
    exec (.msrTrcconfigr 3) s = .refused .writeNotIdle ∧ Allowed .write s.params s.inputs ∧ s.inputs.idle = false :=
  ⟨rfl, .inr (.inr ⟨rfl, rfl⟩), rfl⟩

theorem witness_FaultsArePrecise :
    ∃ u, exec (.msrTrcconfigr 0) trapping = .next u ∧ u.outcome ≠ some .done := ⟨_, rfl, by decide⟩

theorem witness_DeniedAccessLearnsNothing :
    ∃ u, exec (.mrsTrcconfigr 0) (withInputs { Inputs.start with el := .el0 }) = .next u ∧ u.outcome ≠ some .done :=
  ⟨_, rfl, by decide⟩

theorem witness_TrapEntryRecordsSyndrome :
    trapping.inputs.halted = false ∧ EndsWith (.mrsTrcconfigr 7) trapping (.trap .el1 0x18#6) := ⟨rfl, _, rfl, rfl⟩

/-- An Undefined exception from EL0 to EL1, from EL0 to EL2, and at EL2 itself. -/
theorem witness_UndefinedEntryTargets :
    let e0 : Inputs := { Inputs.start with el := .el0 }
    EndsWith (.mrsTrcconfigr 7) (withInputs e0) .undefined ∧
    EndsWith (.mrsTrcconfigr 7) (withInputs { e0 with el2Enabled := true, el0ToEL2 := true }) .undefined ∧
    EndsWith (.msrTrcconfigr 7)
      { State.reset with params := { Params.full with featETE := false },
                         inputs := { Inputs.start with el := .el2 } } .undefined :=
  ⟨⟨_, rfl, rfl⟩, ⟨_, rfl, rfl⟩, ⟨_, rfl, rfl⟩⟩

/-- A write of a permitted value, then a read of it. -/
theorem witness_WriteThenReadReturnsValue :
    ∃ u v, exec (.msrTrcconfigr 0) (withX0 0x2001) = .next u ∧ u.outcome = some .done ∧
      exec (.mrsTrcconfigr 1) u = .next v ∧ v.outcome = some .done ∧ (1#5 ≠ 31#5) ∧
      qeReserved Params.full ((withX0 0x2001).readX 0) = false ∧ (implMask .full)[13] = true :=
  ⟨_, _, rfl, rfl, rfl, rfl, by decide, by decide, by decide⟩

theorem witness_ReservedQEBecomesUnknown :
    (∃ u, exec (.msrTrcconfigr 0) (withX0 0x4001) = .next u ∧ u.outcome = some .done) ∧
    Params.full.qsupp ≠ 0b00#2 ∧ qePermitted .full (((withX0 0x4001).readX 0).extractLsb' 13 2) = false :=
  ⟨⟨_, rfl, rfl⟩, by decide, by decide⟩

theorem witness_HardwiredBitsReadArchitected :
    (∃ u, exec (.mrsTrcconfigr 0) State.reset = .next u ∧ u.outcome = some .done) ∧ (0#5 ≠ 31#5) ∧
    State.reset.params.resStored = 0#64 := ⟨⟨_, rfl, rfl⟩, by decide, rfl⟩

/-- Reads into two registers and into one. -/
theorem witness_RepeatedReadsAgreeOnKnownBits :
    (∃ u v, exec (.mrsTrcconfigr 0) State.reset = .next u ∧ u.outcome = some .done ∧
      exec (.mrsTrcconfigr 0) u = .next v ∧ v.outcome = some .done) ∧
    (∃ u v, exec (.mrsTrcconfigr 0) State.reset = .next u ∧ u.outcome = some .done ∧
      exec (.mrsTrcconfigr 1) u = .next v ∧ v.outcome = some .done) ∧
    ((storeMask State.reset.params)[0] = true → State.reset.cells[0] ≠ .unknown) :=
  ⟨⟨_, _, rfl, rfl, rfl, rfl⟩, ⟨_, _, rfl, rfl, rfl, rfl⟩, by decide⟩

/-- Each of the four cases of bit [15], and each value of `P_QSUPP`, is some implementation's. -/
theorem witness_Bit15HasFourCases : ∀ v : BitVec 2, { Params.full with vmidopt := v }.vmidopt = v := fun _ => rfl

theorem witness_QEPermittedValues :
    (∀ v : BitVec 2, { Params.full with qsupp := v }.qsupp = v) ∧
    qePermitted .full ((0x6001#64).extractLsb' 13 2) = true := ⟨fun _ => rfl, by decide⟩

/-- Each field is present in FULL and absent in MIN. -/
theorem witness_OnOffFieldsFollowTheirConditions :
    Params.full.retstack = true ∧ Params.full.tssize ≠ 0 ∧ Params.full.vmidsize ≠ 0 ∧ Params.full.cidsize ≠ 0 ∧
    Params.full.trccci = true ∧ Params.full.trcbb = true ∧ min.retstack = false ∧ min.tssize = 0 ∧
    min.vmidsize = 0 ∧ min.cidsize = 0 ∧ min.trccci = false ∧ min.trcbb = false := by decide

/-- Cells that hold each permitted QE value, and an implementation without QE. -/
theorem witness_QEMeanings :
    ((written 0x0001)[14] = .known false ∧ (written 0x0001)[13] = .known false) ∧
    ((written 0x2001)[14] = .known false ∧ (written 0x2001)[13] = .known true) ∧
    ((written 0x6001)[14] = .known true ∧ (written 0x6001)[13] = .known true) ∧
    Params.full.qsupp ≠ 0b00#2 ∧ min.qsupp = 0b00#2 := by decide

theorem witness_VirtualContextSelection :
    Params.full.vmidopt = 0b01#2 ∧ (written 1)[15] = .known false ∧ (written 0x8001)[15] = .known true := by decide

theorem witness_LegalAfterWriteExactlyWhen : Params.full.wellFormed = true ∧ allStored.wellFormed = true := by decide

/-- Vector T5. -/
theorem witness_BranchBroadcastExcludesQElements :
    (traceControls .full (written 9)).map (·.branchBroadcast) = some .enabled := by decide

/-- The three clauses: a Legal register, one that is not, and an absent one. -/
theorem witness_TraceReadReportsOptions :
    (turning .traceRead).turns = .traceRead :: [] ∧ legal .full (written 1) = true ∧
    legal .full State.reset.cells = false ∧ { Params.full with featETE := false }.featETE = false := by decide

theorem witness_TraceUnitResetForgetsStoredCells :
    (turning .traceUnitReset).turns = .traceUnitReset :: [] ∧ implMask .full ≠ 0#64 := by decide

theorem witness_RunStartsUnknown : implMask Params.full ≠ 0#64 ∧ (storeMask Params.full)[3] = true := by decide

/-- A state that meets the invariant and steps: at reset the debugger writes. -/
theorem witness_InvariantKeptByEveryStep :
    Inv (turning .traceUnitReset) ∧ ∃ u, step (turning .traceUnitReset) = .next u :=
  ⟨⟨by decide, by decide, by decide, fun i _ => by simp [turning, State.reset, State.initial],
    fun _ => .inl (by simp [turning, State.reset, State.initial])⟩, _, rfl⟩

/-- Each of the three writers changes a cell. -/
theorem witness_OnlyWritersChangeTheRegister :
    field (fun u => u.cells[3]) (step ((withX0 9).withFetchWord 32 0xD5110400)) = some (.known true) ∧
    field (fun u => u.cells[3]) (step (turning (.extWrite admitted 9))) = some (.known true) ∧
    field (fun u => u.cells[3]) (step { turning .traceUnitReset with cells := written 9 }) = some .unknown ∧
    State.reset.cells[3] = .unknown ∧ (written 9)[3] = .known true := by decide

/-- An `MRS` of a Known register and an instruction outside the spec each change a register. -/
theorem witness_OnlyReadersChangeX :
    field (·.readX 0) (step { State.reset.withFetchWord 32 0xD5310400 with cells := written 9 }) = some 9#64 ∧
    field (·.readX 30) (step (turning (.setX 30 5))) = some 5#64 ∧
    State.reset.readX 0 = 0#64 ∧ State.reset.readX 30 = 0#64 := by decide

/-- A trap changes the exception registers. -/
theorem witness_ParametersAndExceptionRegistersAreKept :
    field (fun u => u.exc.el1.syndrome) (step (trapping.withFetchWord 32 0xD5310400)) = some 0x62204009#32 ∧
    trapping.exc.el1.syndrome = 0#32 := by decide

/-- An admitted access; for the write, a permitted and a reserved QE value, and cells on both sides of bit [31]. -/
theorem witness_ExternalReadCompletes :
    (turning (.extRead admitted)).turns = .extRead admitted :: [] ∧ State.reset.params.featETE = true ∧
    admitted.ok = true ∧ admitted.bits = 32 ∧ admitted.addr = extAddress State.reset.params := by decide

theorem witness_ExternalWriteCompletes :
    (turning (.extWrite admitted 9)).turns = .extWrite admitted 9 :: [] ∧ State.reset.params.featETE = true ∧
    admitted.ok = true ∧ admitted.bits = 32 ∧ admitted.addr = extAddress State.reset.params ∧
    State.reset.inputs.idle = true ∧ qeReserved .full ((9#32).setWidth 64) = false ∧
    qeReserved .full ((0x4000#32).setWidth 64) = true ∧ (storeMask allStored)[31] = true ∧
    (storeMask allStored)[32] = true := by decide

/-- Each refusal, at an access that no other clause covers, and an ill-shaped write while not Idle. -/
theorem witness_ExternalAccessRefusals :
    refusal (step (turning (.extRead { admitted with ok := false }))) = some .extAccess ∧
    refusal (step (turning (.extWrite { admitted with addr := 0x011 } 1))) = some .extShape ∧
    refusal (step { turning (.extWrite { admitted with addr := 0x011 } 1) with
      inputs := { Inputs.start with idle := false } }) = some .extShape ∧
    refusal (step { turning (.extWrite admitted 1) with inputs := { Inputs.start with idle := false } }) =
      some .writeNotIdle := by decide

/-- A write through each view and a read through the other. -/
theorem witness_ViewsShareOneStorage :
    (∃ u w, State.reset.extWrite admitted 9 = .next u ∧ exec (.mrsTrcconfigr 0) u = .next w ∧
      w.outcome = some .done) ∧
    (∃ u w, exec (.msrTrcconfigr 0) (withX0 9) = .next u ∧ u.outcome = some .done ∧
      u.extRead admitted = .next w) ∧
    (implMask State.reset.params)[3] = true ∧ qeReserved .full ((9#32).setWidth 64) = false :=
  ⟨⟨_, _, rfl, rfl, rfl⟩, ⟨_, _, rfl, rfl, rfl⟩, by decide, by decide⟩

/-- Two reads of the same cells, all Known and read as vector X2 says. -/
theorem witness_SystemViewExtendsExternalView :
    let s : State := { State.reset with cells := written 0x98D1 }
    s.params.resStored.extractLsb' 32 32 = 0#32 ∧
    (∃ u, exec (.mrsTrcconfigr 0) s = .next u ∧ u.outcome = some .done) ∧ (∃ w, s.extRead admitted = .next w) ∧
    ∀ i : Fin 32, (storeMask s.params)[i.val] = true → s.cells[i.val] ≠ .unknown :=
  ⟨by decide, ⟨_, rfl, rfl⟩, ⟨_, rfl⟩, by decide⟩

/-- Each turn of the surrounding machine, accepted and refused. -/
theorem witness_SurroundingMachineTurns :
    field (·.inputs.el) (step (turning (.inputs atEL1))) = some .el1 ∧
    refusal (step { turning (.inputs Inputs.start) with params := { Params.full with haveEL3 := false } }) =
      some .inconsistentInputs ∧
    field (·.readX 31) (step (turning (.setX 31 5))) = some 0#64 ∧
    field (·.program) (step (turning (.load 8 [1]))) = some [1] ∧
    refusal (step (turning (.load 6 [1]))) = some .misalignedProgram := by decide

end Sys2Proof.Tests
end

/-! Proofs of the statements of 00_scope.md: who may change TRCCONFIGR, the parameters and the exception registers, and
what the turns of the surrounding machine do. First the facts about the access check, an instruction and a step. -/

namespace Sys2Proof.Machine

open Sys2Proof

/-! ### The access check and the inputs -/

/-- No point at which the access check allows is at EL0. -/
theorem Allowed.el_ne_el0 {k : AccessKind} {p : Params} {i : Inputs} (h : Allowed k p i) : i.el ≠ .el0 := by
  obtain ⟨⟨hel, _⟩, _⟩ | ⟨hel, _⟩ | ⟨hel, _⟩ := h <;> simp [hel]

/-- The consistency of the inputs as 00_scope.md R8 words it. -/
theorem inputsConsistent_iff {p : Params} {i : Inputs} :
    inputsConsistent p i = true ↔ (i.el = .el3 → p.haveEL3 = true) := by
  simp [inputsConsistent, Classical.or_iff_not_imp_left]

/-! ### What an instruction changes -/

section Exec

variable {i : Instr} {s u : State}

/-- Every instruction that answers a next state ends with an outcome of 00_scope.md R12. -/
theorem exec_outcome_ne_none (h : exec i s = .next u) : u.outcome ≠ none := by
  by_cases hd : u.outcome = some .done
  · simp [hd]
  · obtain ⟨o, hf⟩ := exec_fault_frame h hd
    simp [hf.outcome]

theorem exec_keeps_params (h : exec i s = .next u) : u.params = s.params := by
  cases exec_next_cases h with
  | read t _ _ hn => rw [hn]; simp
  | write t _ _ _ hn => rw [hn]; simp
  | undefined _ hn => rw [hn, s.takeUndefined_frame.params]
  | trap l _ hn => rw [hn, (s.takeTrap_frame _ _ l).params]

theorem exec_done_keeps_exc (h : exec i s = .next u) (hd : u.outcome = some .done) : u.exc = s.exc := by
  obtain ⟨t, _, _, rfl⟩ | ⟨t, _, _, _, rfl⟩ := exec_done_cases h hd <;> simp

/-- Only an `MSR` that completes changes TRCCONFIGR: a fault and a read change no cell. -/
theorem exec_changes_cells (h : exec i s = .next u) (hc : u.cells ≠ s.cells) :
    ∃ t, i = .msrTrcconfigr t ∧ s.verdict .write = .allow ∧ s.inputs.idle = true ∧ u.outcome = some .done := by
  cases exec_next_cases h with
  | read t _ _ hn => exact absurd (by simp [hn]) hc
  | write t hi ha hidle hn => exact ⟨t, hi, ha, hidle, by simp [hn]⟩
  | undefined _ hn => exact absurd (hn ▸ s.takeUndefined_frame.cells) hc
  | trap l _ hn => exact absurd (hn ▸ (s.takeTrap_frame _ _ l).cells) hc

end Exec

/-! ### What a step changes -/

section Step

variable {s u : State}

theorem step_keeps_params (h : step s = .next u) : u.params = s.params := by
  cases step_next_cases h with
  | pe w ws us i _ _ _ hx => simpa using exec_keeps_params hx
  | extRead | extWrite | traceUnitReset | traceRead | inputs | setX | load => subst u; rfl

/-- A step that changes an exception register is the PE's, and its instruction does not end Done. -/
theorem step_changes_exc (h : step s = .next u) (hc : u.exc ≠ s.exc) :
    (s.turns = [] ∨ s.turns.head? = some .pe) ∧ u.outcome ≠ none ∧ u.outcome ≠ some .done := by
  cases step_next_cases h with
  | pe w ws us i hm _ _ hx =>
    exact ⟨hm.first, exec_outcome_ne_none hx, fun hd => hc (by simpa using exec_done_keeps_exc hx hd)⟩
  | extRead | extWrite | traceUnitReset | traceRead | inputs | setX | load => subst u; exact absurd rfl hc

/-- With a turn listed, the step is the move of that turn's agent. -/
theorem step_turn {t : Turn} {us : List Turn} (h : s.turns = t :: us) :
    step s = runTurn t { s with turns := us } := by
  simp only [step, h]

end Step

/-! ### The turns of the surrounding machine -/

section SurroundingMachine

variable {s : State} {us : List Turn}

theorem step_inputs_consistent {i : Inputs} (ht : s.turns = .inputs i :: us)
    (hi : inputsConsistent s.params i = true) : step s = .next { s with turns := us, inputs := i } := by
  simp [step_turn ht, runTurn, State.supply, hi]

theorem step_inputs_inconsistent {i : Inputs} (ht : s.turns = .inputs i :: us)
    (hi : inputsConsistent s.params i = false) : step s = .refused .inconsistentInputs := by
  simp [step_turn ht, runTurn, State.supply, hi]

theorem step_setX {t : RegNum} {v : Word} (ht : s.turns = .setX t v :: us) :
    step s = .next (({ s with turns := us } : State).writeX t v) := by
  rw [step_turn ht, runTurn]

theorem step_load_aligned {pc : Word} {ws : List InstrWord} (ht : s.turns = .load pc ws :: us)
    (ha : pc.extractLsb' 0 2 = 0b00#2) : step s = .next { s with turns := us, pc := pc, program := ws } := by
  simp only [step_turn ht, runTurn, State.load, if_pos ha]

theorem step_load_misaligned {pc : Word} {ws : List InstrWord} (ht : s.turns = .load pc ws :: us)
    (ha : pc.extractLsb' 0 2 ≠ 0b00#2) : step s = .refused .misalignedProgram := by
  simp only [step_turn ht, runTurn, State.load, if_neg ha]

end SurroundingMachine

/-! ### The statements -/

/-- Settles O41: the cases of a step that keep the cells are excluded, and the three writers remain. -/
theorem onlyWritersChangeTheRegister : Obligations.OnlyWritersChangeTheRegister := by
  intro s u h hc
  cases step_next_cases h with
  | pe w ws us i hm hp hdec hx =>
    obtain ⟨t, rfl, hv, hidle, hd⟩ := exec_changes_cells hx hc
    obtain ⟨hete, hallow⟩ := State.verdict_allow_iff.mp hv
    exact .inl ⟨t, w, ws, hp, hdec, hm.first, hete, hallow.el_ne_el0, hallow, hidle, hd⟩
  | extWrite a v us ht hadm hidle _ =>
    obtain ⟨hete, hok, haddr, hbits⟩ := extRefusal_none_iff.mp hadm
    exact .inr (.inl ⟨a, v, us, ht, hete, hok, hbits, haddr, hidle⟩)
  | traceUnitReset us ht _ => exact .inr (.inr ⟨us, ht⟩)
  | extRead | traceRead | inputs | setX | load => subst u; exact absurd rfl hc

/-- Settles O43: every step keeps the parameters, and only a faulting instruction writes an exception register. -/
theorem parametersAndExceptionRegistersAreKept : Obligations.ParametersAndExceptionRegistersAreKept :=
  fun _ _ h => ⟨step_keeps_params h, step_changes_exc h⟩

/-- Settles O49, one turn of the surrounding machine at a time. -/
theorem surroundingMachineTurns : Obligations.SurroundingMachineTurns := by
  intro s us
  refine ⟨fun i ht hi => ?consistent, fun i ht hel hno => ?inconsistent, fun t v ht => ?setX,
    fun pc ws ht ha => step_load_aligned ht ha, fun pc ws ht ha => step_load_misaligned ht ha⟩
  case consistent => exact step_inputs_consistent ht (inputsConsistent_iff.mpr hi)
  case inconsistent => exact step_inputs_inconsistent ht (by simp [inputsConsistent, hel, hno])
  case setX =>
    refine ⟨_, step_setX ht, State.readX_writeX_same _ v, fun t' hne => ?_, ?_, rfl⟩
    · rw [State.readX_writeX_other _ v hne]
      exact State.readX_congr rfl t'
    · rintro rfl
      rw [State.writeX_zero]

end Sys2Proof.Machine

/-! Proofs of the statements of 10_state.md: the PE's program, the register and its fields, Legal and the options, and
the invariant. First the facts about a step of the PE, the masks, a written cell and Legal; the invariant's own lemmas
stand last. -/

namespace Sys2Proof.Machine

open Sys2Proof

/-! ### The PE runs the head of its program -/

/-- A step of the PE whose program's head decodes runs that instruction. -/
theorem peStep_decoded {s : State} {w : InstrWord} {ws : List InstrWord} {i : Instr} (hp : s.program = w :: ws)
    (hd : decodeWord w = .ok i) : peStep s = exec i { s with program := ws } := by
  simp only [peStep, fetch, hp, hd]

/-- With no turn listed, the step is the PE's. -/
theorem step_no_turn {s : State} (h : s.turns = []) : step s = peStep s := by
  simp only [step, h]

/-- What a table word is read as is what its word decodes to. -/
theorem decodeWord_tableWord {nbits w : Nat} {i : Instr} (h : decodeTableWord nbits w = some i) :
    decodeWord (tableWord nbits w) = .ok i := by
  have hb := decodeBytes_wordBytes (tableWord nbits w) []
  rw [List.append_nil] at hb
  cases hd : decodeWord (tableWord nbits w) with
  | ok j => simpa [decodeTableWord, hb, hd] using h
  | error e => simp [decodeTableWord, hb, hd] at h

/-! ### The masks -/

/-- The bits of the constants that `ImplMask` is put together from. -/
theorem field_bits : ∀ j : Fin 64,
    (0x6000#64 : Word)[j] = decide (j = 14 ∨ j = 13) ∧ (0x1000#64 : Word)[j] = decide (j = 12) ∧
    (0x0800#64 : Word)[j] = decide (j = 11) ∧ (0x0080#64 : Word)[j] = decide (j = 7) ∧
    (0x0040#64 : Word)[j] = decide (j = 6) ∧ (0x0010#64 : Word)[j] = decide (j = 4) ∧
    (0x0008#64 : Word)[j] = decide (j = 3) ∧ (0x8000#64 : Word)[j] = decide (j = 15) := by decide

/-- `ImplMask` bit by bit (10_state.md R35). -/
theorem implMask_getElem_iff (p : Params) (i : Fin 64) : (implMask p)[i] = true ↔
    (i = 15 ∧ p.vmidopt = 0b01#2) ∨ ((i = 14 ∨ i = 13) ∧ p.qsupp ≠ 0b00#2) ∨ (i = 12 ∧ p.retstack = true) ∨
    (i = 11 ∧ p.tssize ≠ 0b00000#5) ∨ (i = 7 ∧ p.vmidsize ≠ 0b00000#5) ∨ (i = 6 ∧ p.cidsize ≠ 0b00000#5) ∨
    (i = 4 ∧ p.trccci = true) ∨ (i = 3 ∧ p.trcbb = true) := by
  obtain ⟨h6000, h1000, h0800, h0080, h0040, h0010, h0008, h8000⟩ := field_bits i
  simp only [Fin.getElem_fin] at h6000 h1000 h0800 h0080 h0040 h0010 h0008 h8000 ⊢
  simp only [implMask, BitVec.getElem_or, maskIf_getElem, h6000, h1000, h0800, h0080, h0040, h0010, h0008, h8000,
    Bool.or_eq_true, Bool.and_eq_true, beq_iff_eq, bne_iff_ne, decide_eq_true_eq, or_assoc, and_comm]

/-- `Res1Mask` bit by bit (10_state.md R35). -/
theorem res1Mask_getElem_iff (p : Params) (i : Fin 64) :
    (res1Mask p)[i] = true ↔ i = 0 ∨ (i = 15 ∧ p.vmidopt = 0b10#2) := by
  simp only [Fin.getElem_fin, res1Mask_getElem, Bool.or_eq_true, Bool.and_eq_true, decide_eq_true_eq, beq_iff_eq,
    Fin.ext_iff]
  rfl

theorem resMask_getElem (p : Params) (i : Nat) (h : i < 64) : (resMask p)[i] = !(implMask p)[i] := by
  rw [resMask, BitVec.getElem_not]

theorem res0Mask_getElem (p : Params) (i : Nat) (h : i < 64) :
    (res0Mask p)[i] = (!(implMask p)[i] && !(res1Mask p)[i]) := by
  rw [res0Mask, BitVec.getElem_and, BitVec.getElem_not, resMask_getElem]

/-! ### A written cell -/

section Written

variable {p : Params} {v : Word}

/-- A written value is reserved exactly where QE is implemented and does not permit it. -/
theorem qeReserved_eq_true_iff : qeReserved p v = true ↔
    p.qsupp ≠ 0b00#2 ∧ qePermitted p (v.extractLsb' 13 2) = false := by
  simp [qeReserved]

/-- The same the other way: a value is not reserved where QE, if it is implemented, permits it. -/
theorem qeReserved_eq_false_iff : qeReserved p v = false ↔
    (p.qsupp ≠ 0b00#2 → qePermitted p (v.extractLsb' 13 2) = true) := by
  simp [qeReserved]

/-- A write stores a storage cell as given, the QE cells of a reserved value excepted. -/
theorem writeValue_stores (cells : Vector Cell 64) {i : Nat} (h : i < 64) (hs : (storeMask p)[i] = true)
    (hq : i = 13 ∨ i = 14 → qeReserved p v = false) : (writeValue p cells v)[i] = .known v[i] := by
  rw [writeValue_getElem, if_neg, if_pos hs]
  simp only [Bool.and_eq_true, Bool.or_eq_true, beq_iff_eq]
  rintro ⟨hr, hi⟩
  simp [hq hi] at hr

/-- A write of a reserved value leaves the QE cells Unknown. -/
theorem writeValue_spoils (cells : Vector Cell 64) {i : Nat} (h : i < 64) (hi : i = 13 ∨ i = 14)
    (hr : qeReserved p v = true) : (writeValue p cells v)[i] = .unknown := by
  rw [writeValue_getElem, if_pos]
  simpa [hr] using hi

/-- A write of a value that is not reserved stores both QE cells. -/
theorem writeValue_stores_QE (cells : Vector Cell 64) (hq : p.qsupp ≠ 0b00#2) (hr : qeReserved p v = false) :
    (writeValue p cells v)[14] = .known v[14] ∧ (writeValue p cells v)[13] = .known v[13] :=
  ⟨writeValue_stores cells _ (storeMask_QE hq _ (.inr rfl)) fun _ => hr,
    writeValue_stores cells _ (storeMask_QE hq _ (.inl rfl)) fun _ => hr⟩

/-- The cell of an implemented field is written as given and reads back, a reserved QE value excepted. -/
theorem implemented_written_and_read_back {i : Nat} (h : i < 64) (hi : (implMask p)[i] = true)
    (hq : i = 13 ∨ i = 14 → qeReserved p v = false) (cells : Vector Cell 64) (draw : Word) :
    (writeValue p cells v)[i] = .known v[i] ∧ (readValue p (writeValue p cells v) draw)[i] = v[i] := by
  have hs := storeMask_of_implMask hi
  have hc := writeValue_stores cells h hs hq
  exact ⟨hc, readValue_known draw h hs hc⟩

/-- A write of a reserved QE value leaves the register not Legal (D8). -/
theorem legal_writeValue_of_qeReserved (cells : Vector Cell 64) (hr : qeReserved p v = true) :
    legal p (writeValue p cells v) = false :=
  legal_false_of_unknown 13 ((implMask_getElem_13 p).trans (bne_iff_ne.2 (qsupp_of_qeReserved hr)))
    (writeValue_spoils cells (by decide) (.inl rfl) hr)

end Written

/-! ### Legal and the options -/

/-- `Legal`, clause by clause (10_state.md R38). -/
theorem legal_iff {p : Params} {cells : Vector Cell 64} : legal p cells = true ↔
    (∀ i : Fin 64, (implMask p)[i] = true → cells[i] ≠ .unknown) ∧
    (p.qsupp ≠ 0b00#2 → qePermitted p (qeValue p cells) = true) ∧
    (optionBit p cells 3 = true → qeValue p cells = 0b00#2) ∧
    (∀ i : Fin 64, (resMask p)[i] = true → p.resStored[i] = true → cells[i] = .known (res1Mask p)[i]) := by
  simp only [legal, legalProgrammed, legalQE, legalBB, legalReserved, Bool.and_eq_true, Bool.or_eq_true,
    Bool.not_eq_true', decide_eq_true_eq, beq_iff_eq, Classical.or_iff_not_imp_left, Bool.not_eq_false, and_assoc,
    Fin.getElem_fin, BitVec.getElem_and, and_imp, ne_eq]

/-- Where QE is not implemented its bits are RES0, and so it counts as `0b00`. -/
theorem qeValue_absent {p : Params} (hq : p.qsupp = 0b00#2) (cells : Vector Cell 64) : qeValue p cells = 0b00#2 := by
  have h14 : optionBit p cells 14 = false := by
    rw [optionBit_reserved (by simp [implMask_getElem_14, hq])]; simp [res1Mask_getElem]
  have h13 : optionBit p cells 13 = false := by
    rw [optionBit_reserved (by simp [implMask_getElem_13, hq])]; simp [res1Mask_getElem]
  rw [qeValue, h14, h13]; rfl

/-- QE of a register to which a value was written that is not reserved. -/
theorem qeValue_writeValue {p : Params} {v : Word} (cells : Vector Cell 64) (hq : p.qsupp ≠ 0b00#2)
    (hr : qeReserved p v = false) : qeValue p (writeValue p cells v) = v.extractLsb' 13 2 := by
  obtain ⟨h14, h13⟩ := writeValue_stores_QE cells hq hr
  rw [qeValue_known hq h14 h13, qeField_eq]

/-- The option bit of BB after a write: the bit written where BB is implemented, else 0. -/
theorem optionBit_bb_writeValue (p : Params) (cells : Vector Cell 64) (v : Word) :
    optionBit p (writeValue p cells v) 3 = (p.trcbb && v[3]) := by
  cases hb : p.trcbb with
  | true =>
    have hi : (implMask p)[(3 : Fin 64)] = true := (implMask_getElem_3 p).trans hb
    exact optionBit_known hi (writeValue_stores cells _ (storeMask_of_implMask hi) (by simp))
  | false =>
    rw [optionBit_reserved ((implMask_getElem_3 p).trans hb)]
    simp [res1Mask_getElem]

/-- The value of bit [15] decides nothing about Legal where VMIDOPT is implemented. -/
theorem legal_set_bit15 {p : Params} (hv : p.vmidopt = 0b01#2) (cells : Vector Cell 64) {b : Bool} (b' : Bool)
    (h : legal p (cells.set 15 (.known b)) = true) : legal p (cells.set 15 (.known b')) = true := by
  have agree (i : Fin 64) (hi : i ≠ 15) : (cells.set 15 (.known b'))[i] = (cells.set 15 (.known b))[i] := by
    have hne : 15 ≠ i.val := fun e => hi (Fin.ext e.symm)
    simp [hne]
  have hopt (i : Fin 64) (hi : i ≠ 15) :
      optionBit p (cells.set 15 (.known b')) i = optionBit p (cells.set 15 (.known b)) i := by
    rw [optionBit, agree i hi, optionBit]
  have hqe : qeValue p (cells.set 15 (.known b')) = qeValue p (cells.set 15 (.known b)) := by
    rw [qeValue, hopt 14 (by decide), hopt 13 (by decide), qeValue]
  obtain ⟨hprog, hperm, hbb, hres⟩ := legal_iff.mp h
  refine legal_iff.mpr ⟨fun i hi => ?programmed, by rwa [hqe], by rwa [hqe, hopt 3 (by decide)],
    fun i hi hs => ?reserved⟩
  case programmed =>
    by_cases h15 : i = 15
    · subst h15; simp
    · rw [agree i h15]; exact hprog i hi
  case reserved =>
    have h15 : i ≠ 15 := by
      rintro rfl
      simp [resMask_getElem, implMask_getElem_15, hv] at hi
    rw [agree i h15]; exact hres i hi hs

/-- An option is enabled only by its bit. -/
theorem optionOf_eq_enabled_iff {implemented on : Bool} :
    optionOf implemented on = .enabled ↔ implemented = true ∧ on = true := by
  cases implemented <;> cases on <;> simp [optionOf]

/-- An on/off field is one whose bit is in `ImplMask` exactly when it is present, outside QE and the RES1 bits, and
whose option is read from that bit. -/
theorem onOffField_of {p : Params} {i : Fin 64} {impl : Bool} {present : Prop} {opt : TraceControls → OptionValue}
    (hm : (implMask p)[i] = impl) (hp : impl = true ↔ present)
    (hi : i.val ≠ 0 ∧ i.val ≠ 13 ∧ i.val ≠ 14 ∧ i.val ≠ 15)
    (ho : ∀ cells, opt (controlsOf p cells) = optionOf impl (optionBit p cells i)) : OnOffField p i present opt := by
  subst hm
  obtain ⟨h0, h13, h14, h15⟩ := hi
  refine ⟨fun h => ?present, fun h => ?absent⟩
  case present =>
    have him := hp.mpr h
    refine ⟨him, fun cells v draw => ?_, fun cells hc => ?_, fun cells hc => ?_, fun cells => ?_⟩
    · exact implemented_written_and_read_back i.isLt him (fun e => absurd e (not_or.mpr ⟨h13, h14⟩)) cells draw
    · rw [ho, him, optionBit_known him hc]; rfl
    · rw [ho, him, optionBit_known him hc]; rfl
    · exact (resetCells_getElem p cells i i.isLt).trans (if_pos (storeMask_of_implMask him))
  case absent =>
    have him : (implMask p)[i] = false := Bool.eq_false_iff.mpr fun e => h (hp.mp e)
    have h1 : (res1Mask p)[i] = false := (res1Mask_getElem p i i.isLt).trans (by simp [h0, h15])
    exact (res0Mask_getElem p i i.isLt).trans (by rw [← Fin.getElem_fin, ← Fin.getElem_fin, him, h1]; rfl)

/-! ### The invariant -/

/-- The part of the invariant that speaks of the cells. -/
structure CellsSound (p : Params) (cells : Vector Cell 64) : Prop where
  unstored : ∀ i : Fin 64, (storeMask p)[i] = false → cells[i] = .unknown
  qe : QESound p cells

/-- QE is sound where both its cells are Unknown or hold a value that is not reserved; so after a write of either
view. -/
theorem QESound.of_written {p : Params} {cells : Vector Cell 64} {v : Word}
    (hbad : qeReserved p v = true → cells[14] = .unknown ∧ cells[13] = .unknown)
    (hgood : p.qsupp ≠ 0b00#2 → qeReserved p v = false → cells[14] = .known v[14] ∧ cells[13] = .known v[13]) :
    QESound p cells := by
  intro hq
  cases hr : qeReserved p v with
  | true => exact .inl (hbad hr)
  | false =>
    obtain ⟨h14, h13⟩ := hgood hq hr
    refine .inr ⟨_, _, h14, h13, ?_⟩
    rw [qeField_eq]
    exact qeReserved_eq_false_iff.mp hr hq

section CellsSound

variable {p : Params} {cells : Vector Cell 64}

theorem CellsSound.writeValue (h : CellsSound p cells) (v : Word) : CellsSound p (writeValue p cells v) where
  unstored i hi := by
    have hc := h.unstored i hi
    rw [Fin.getElem_fin] at hi hc ⊢
    simp [writeValue_getElem, hi, hc]
  qe := .of_written (v := v)
    (fun hr => ⟨writeValue_spoils cells _ (.inr rfl) hr, writeValue_spoils cells _ (.inl rfl) hr⟩)
    (writeValue_stores_QE cells)

theorem CellsSound.writeValue32 (h : CellsSound p cells) (v : BitVec 32) :
    CellsSound p (writeValue32 p cells v) where
  unstored i hi := by
    have hc := h.unstored i hi
    rw [Fin.getElem_fin] at hi hc ⊢
    simp [writeValue32_getElem, hi, hc]
  qe := .of_written (v := v.setWidth 64) (fun hr => by simp [writeValue32_getElem, hr]) fun hq hr => by
    have h14 : (storeMask p)[14] = true := storeMask_QE hq _ (.inr rfl)
    have h13 : (storeMask p)[13] = true := storeMask_QE hq _ (.inl rfl)
    simp [writeValue32_getElem, hr, h14, h13]

theorem CellsSound.resetCells (h : CellsSound p cells) : CellsSound p (resetCells p cells) where
  unstored i hi := by
    have hc := h.unstored i hi
    rw [Fin.getElem_fin] at hi hc ⊢
    simp [resetCells_getElem, hc]
  qe hq := by
    have h14 : (storeMask p)[14] = true := storeMask_QE hq _ (.inr rfl)
    have h13 : (storeMask p)[13] = true := storeMask_QE hq _ (.inl rfl)
    exact .inl (by simp [resetCells_getElem, h14, h13])

end CellsSound

theorem Inv.cellsSound {s : State} (h : Inv s) : CellsSound s.params s.cells := ⟨h.unstored, h.qe⟩

/-- The invariant of a state with the parameters of one that has it. -/
theorem Inv.of_params_eq {s u : State} (h : Inv s) (hp : u.params = s.params)
    (hin : u.inputs.el = .el3 → s.params.haveEL3 = true) (ha : u.pc.extractLsb' 0 2 = 0b00#2)
    (hc : CellsSound s.params u.cells) : Inv u where
  params := hp ▸ h.params
  inputs := hp ▸ inputsConsistent_iff.mpr hin
  aligned := ha
  unstored := hp ▸ hc.unstored
  qe := hp ▸ hc.qe

theorem Inv.el3_exists {s : State} (h : Inv s) : s.inputs.el = .el3 → s.params.haveEL3 = true :=
  inputsConsistent_iff.mp h.inputs

/-- The next instruction's address is aligned as the instruction's own. -/
theorem aligned_add_four {pc : Word} (h : pc.extractLsb' 0 2 = 0b00#2) :
    (pc + 4#64).extractLsb' 0 2 = 0b00#2 := by
  have h' := congrArg BitVec.toNat h
  apply BitVec.eq_of_toNat_eq
  simp only [BitVec.extractLsb'_toNat, BitVec.toNat_add, BitVec.toNat_ofNat, Nat.shiftRight_zero] at h' ⊢
  omega

/-- A fault taken while halted reaches EL3 only from EL3 or where EL3 exists (log 14). -/
theorem haltedLevel_el3 {p : Params} {i : Inputs} {n : Nat} (h : haltedLevel p i n = .el3) :
    i.el = .el3 ∨ p.haveEL3 = true := by
  unfold haltedLevel at h
  split at h
  · exact .inl h
  · rename_i hn
    exact .inr (by simpa [h] using hn)

theorem ExcLevel.toEL_eq_el3 {l : ExcLevel} (h : l.toEL = .el3) : l = .el3 := by
  cases l with
  | el1 | el2 => cases h
  | el3 => rfl

/-- An Undefined exception is taken to EL3 only from EL3 (60_exceptions.md R90). -/
theorem undefinedTarget_el3 {i : Inputs} (h : (undefinedTarget i).toEL = .el3) : i.el = .el3 := by
  cases hel : i.el with
  | el0 =>
    simp only [undefinedTarget, hel] at h
    split at h <;> cases h
  | el1 | el2 => simp [undefinedTarget, hel, ExcLevel.toEL] at h
  | el3 => rfl

/-- A trap is taken to EL3 only from EL3 or where EL3 exists (60_exceptions.md R88). -/
theorem verdict_trap_el3 {s : State} {k : AccessKind} (h : s.verdict k = .trap .el3) :
    s.inputs.el = .el3 ∨ s.params.haveEL3 = true := by
  unfold State.verdict at h
  split at h
  · obtain ⟨_, ⟨hhave, _⟩, _⟩ | ⟨_, _, _, ⟨hhave, _⟩, _⟩ | ⟨hel, _⟩ := accessCheck_trap3_iff.mp h
    · exact .inr hhave
    · exact .inr hhave
    · exact .inl hel
  · cases h

/-- An exception is entered at EL3 only from EL3 or where EL3 exists (00_scope.md R8). -/
theorem exec_fault_el3 {i : Instr} {s u : State} (h : exec i s = .next u) (hd : u.outcome ≠ some .done)
    (hel : u.inputs.el = .el3) : s.inputs.el = .el3 ∨ s.params.haveEL3 = true := by
  cases exec_next_cases h with
  | read t _ _ hn => subst hn; exact absurd rfl hd
  | write t _ _ _ hn => subst hn; exact absurd rfl hd
  | undefined _ hn =>
    subst hn
    unfold State.takeUndefined at hel
    split at hel
    · exact haltedLevel_el3 hel
    · exact .inl (undefinedTarget_el3 hel)
  | trap l hv hn =>
    subst hn
    unfold State.takeTrap at hel
    split at hel
    · exact haltedLevel_el3 hel
    · exact verdict_trap_el3 (ExcLevel.toEL_eq_el3 hel ▸ hv)

/-- Every instruction keeps the invariant. -/
theorem exec_keeps_inv {i : Instr} {s u : State} (hi : Inv s) (h : exec i s = .next u) : Inv u := by
  by_cases hd : u.outcome = some .done
  · obtain ⟨t, _, _, rfl⟩ | ⟨t, _, _, _, rfl⟩ := exec_done_cases h hd
    · exact hi.of_params_eq rfl hi.el3_exists (aligned_add_four hi.aligned) hi.cellsSound
    · exact hi.of_params_eq rfl hi.el3_exists (aligned_add_four hi.aligned) (hi.cellsSound.writeValue _)
  · obtain ⟨o, hf⟩ := exec_fault_frame h hd
    refine hi.of_params_eq hf.params (fun hel => ?_) hf.aligned (hf.cells ▸ hi.cellsSound)
    exact (exec_fault_el3 h hd hel).elim hi.el3_exists id

/-! ### The statements -/

/-- Settles O4, with no turn listed and with the PE's turn listed first. -/
theorem stepRunsDecodedInstruction : Obligations.StepRunsDecodedInstruction := by
  intro s w ws i hp hd
  refine ⟨fun ht => ?none, fun us ht => ?listed⟩
  case none => rw [step_no_turn ht, peStep_decoded hp hd]
  case listed =>
    rw [step_turn ht]
    exact peStep_decoded hp hd

/-- Settles O6: the placed word heads the program, and taking it off again restores the state. -/
theorem placedWordRunsNext : Obligations.PlacedWordRunsNext := by
  intro s nbits w i h
  have ht : (s.withFetchWord nbits w).turns = .pe :: s.turns := rfl
  rw [step_turn ht, runTurn, peStep_decoded rfl (decodeWord_tableWord h)]
  rfl

/-- Settles O24: the write spoils the QE cells and stores the others. -/
theorem reservedQEBecomesUnknown : Obligations.ReservedQEBecomesUnknown := by
  intro t s u h hd hq hperm
  have hr := qeReserved_eq_true_iff.mpr ⟨hq, hperm⟩
  have hf := exec_msr_frame h hd
  rw [hf.cells, hf.params]
  refine ⟨writeValue_spoils _ _ (.inl rfl) hr, writeValue_spoils _ _ (.inr rfl) hr,
    legal_writeValue_of_qeReserved _ hr, fun i hs ⟨h13, h14⟩ => writeValue_stores _ i.isLt hs ?_⟩
  rintro (e | e)
  · exact absurd (Fin.ext e) h13
  · exact absurd (Fin.ext e) h14

/-- Settles O25: without reserved storage a bit is read from storage exactly when it is implemented. -/
theorem hardwiredBitsReadArchitected : Obligations.HardwiredBitsReadArchitected := by
  intro t s u h hd ht hw
  rw [(exec_mrs_frame h hd).value ht]
  ext i hi
  have hstore : (storeMask s.params)[i] = (implMask s.params)[i] := by
    rw [storeMask_getElem, hw, BitVec.getElem_zero, Bool.or_false]
  rw [BitVec.getElem_and, readValue_getElem, resMask_getElem, hstore]
  cases him : (implMask s.params)[i] with
  | true => rw [Bool.not_true, Bool.and_false, res1Mask_of_implMask him]
  | false => rw [if_neg Bool.false_ne_true, Bool.not_false, Bool.and_true]

/-- Settles O27: the second read is of the same cells, with another draw. -/
theorem repeatedReadsAgreeOnKnownBits : Obligations.RepeatedReadsAgreeOnKnownBits := by
  intro t t' s u v ht ht' hu hud hv hvd i hk
  have first := exec_mrs_frame hu hud
  have second := exec_mrs_frame hv hvd
  rw [second.value ht', first.value ht, first.params, first.cells]
  exact readValue_draws_agree _ _ i.isLt hk

/-- Settles O28, mask by mask. -/
theorem masksBitByBit : Obligations.MasksBitByBit := by
  intro p i
  refine ⟨implMask_getElem_iff p i, res1Mask_getElem_iff p i, ?res, ?res0, ?store, fun ⟨hi, h1⟩ => ?disjoint⟩
  case res => simp [resMask_getElem]
  case res0 => simp [res0Mask_getElem]
  case store => simp [storeMask_getElem]
  case disjoint => exact absurd h1 (Bool.eq_false_iff.mp (res1Mask_of_implMask hi))

/-- Settles O29, case by case. -/
theorem bit15HasFourCases : Obligations.Bit15HasFourCases := by
  intro p
  refine ⟨fun hv => ?res0, fun hv => ?res1, fun hv => ?implemented, fun hv => ?reserved⟩
  case res0 | reserved => simp [res0Mask_getElem, implMask_getElem_15, res1Mask_getElem, hv]
  case res1 => simp [resMask_getElem, implMask_getElem_15, res1Mask_getElem, hv]
  case implemented =>
    have hi : (implMask p)[15] = true := by simp [implMask_getElem_15, hv]
    exact ⟨hi, fun cells v draw => implemented_written_and_read_back _ hi (by simp) cells draw,
      fun cells b b' => Bool.eq_iff_iff.mpr ⟨legal_set_bit15 hv cells b', legal_set_bit15 hv cells b⟩⟩

/-- Settles O30, case by case. -/
theorem qePermittedValues : Obligations.QEPermittedValues := by
  intro p q
  refine ⟨fun hq => ?absent, fun hq => ?present, fun hq => ?one, fun hq => ?two, fun hq => ?three, ?never⟩
  case absent => simp [res0Mask_getElem, implMask_getElem_14, implMask_getElem_13, res1Mask_getElem, hq]
  case present =>
    have h14 : (implMask p)[14] = true := (implMask_getElem_14 p).trans (bne_iff_ne.2 hq)
    have h13 : (implMask p)[13] = true := (implMask_getElem_13 p).trans (bne_iff_ne.2 hq)
    refine ⟨h14, h13, fun cells v draw hperm => ?_⟩
    have hr : qeReserved p v = false := qeReserved_eq_false_iff.mpr fun _ => hperm
    obtain ⟨w14, r14⟩ := implemented_written_and_read_back _ h14 (fun _ => hr) cells draw
    obtain ⟨w13, r13⟩ := implemented_written_and_read_back _ h13 (fun _ => hr) cells draw
    exact ⟨w14, w13, r14, r13⟩
  case one | two | three => simp [qePermitted, hq, or_assoc]
  case never => simp [qePermitted]

/-- Settles O31: each of the six is an on/off field. -/
theorem onOffFieldsFollowTheirConditions : Obligations.OnOffFieldsFollowTheirConditions := by
  intro p
  exact ⟨onOffField_of (implMask_getElem_12 p) .rfl (by decide) fun _ => rfl,
    onOffField_of (implMask_getElem_11 p) bne_iff_ne (by decide) fun _ => rfl,
    onOffField_of (implMask_getElem_7 p) bne_iff_ne (by decide) fun _ => rfl,
    onOffField_of (implMask_getElem_6 p) bne_iff_ne (by decide) fun _ => rfl,
    onOffField_of (implMask_getElem_4 p) .rfl (by decide) fun _ => rfl,
    onOffField_of (implMask_getElem_3 p) .rfl (by decide) fun _ => rfl⟩

/-- Settles O34: a reserved value is never Legal, and after any other the clauses of Legal speak of the value. -/
theorem legalAfterWriteExactlyWhen : Obligations.LegalAfterWriteExactlyWhen := by
  intro p cells v _
  cases hr : qeReserved p v with
  | true =>
    obtain ⟨hq, hperm⟩ := qeReserved_eq_true_iff.mp hr
    simp [legal_writeValue_of_qeReserved cells hr, hq, hperm]
  | false =>
    have hperm := qeReserved_eq_false_iff.mp hr
    have stored (i : Fin 64) (hs : (storeMask p)[i] = true) : (writeValue p cells v)[i] = .known v[i] :=
      writeValue_stores cells i.isLt hs fun _ => hr
    have reserved (i : Fin 64) (hs : p.resStored[i] = true) : (writeValue p cells v)[i] = .known v[i] :=
      stored i ((storeMask_getElem p i i.isLt).trans (by simpa using .inr hs))
    rw [legal_iff, optionBit_bb_writeValue]
    constructor
    · rintro ⟨_, _, hbb, hres⟩
      refine ⟨hperm, fun hq hb h3 => ?_, fun i hi hs => ?_⟩
      · rw [← qeValue_writeValue cells hq hr]
        exact hbb (by simp [hb, h3])
      · exact Cell.known.inj ((reserved i hs).symm.trans (hres i hi hs))
    · rintro ⟨_, hbb, hres⟩
      refine ⟨fun i hi => ?_, fun hq => ?_, fun h => ?_, fun i hi hs => ?_⟩
      · simp [stored i (storeMask_of_implMask hi)]
      · rw [qeValue_writeValue cells hq hr]
        exact hperm hq
      · by_cases hq : p.qsupp = 0b00#2
        · exact qeValue_absent hq _
        · obtain ⟨hb, h3⟩ := Bool.and_eq_true_iff.mp h
          rw [qeValue_writeValue cells hq hr]
          exact hbb hq hb h3
      · rw [reserved i hs, hres i hi hs]

/-- Settles O35, by clause (c) of Legal. -/
theorem branchBroadcastExcludesQElements : Obligations.BranchBroadcastExcludesQElements := by
  intro p cells c hc hbb
  unfold traceControls at hc
  split at hc
  · rename_i hl
    obtain rfl : controlsOf p cells = c := Option.some.inj hc
    obtain ⟨_, _, hclause, _⟩ := legal_iff.mp hl
    have hqe := hclause (optionOf_eq_enabled_iff.mp hbb).2
    simp [controlsOf, optionOf_eq_enabled_iff, hqe]
  · cases hc

/-- Settles O32: the cells are QE, and each value of QE is looked up. -/
theorem qeMeanings : Obligations.QEMeanings := by
  intro p cells hi lo
  refine ⟨fun hq h14 h13 => ?implemented, fun hq => ?absent⟩
  case implemented =>
    simp only [controlsOf, qeValue_known hq h14 h13, optionOf, bne_iff_ne.mpr hq, if_true]
    cases hi <;> cases lo <;> decide
  case absent => simp [controlsOf, optionOf, hq]

/-- Settles O33, one value of VMIDOPT at a time; where bit [15] is implemented its cell is the option bit. -/
theorem virtualContextSelection : Obligations.VirtualContextSelection := by
  intro p cells
  have hbit (b : Bool) (hv : p.vmidopt = 0b01#2) (hc : cells[15] = .known b) : optionBit p cells 15 = b :=
    optionBit_known (by simp [implMask_getElem_15, hv]) hc
  refine ⟨fun hv => ?fixed0, fun hv => ?fixed2, fun hv hc => ?clear, fun hv hc => ?set, fun hv => ?fixed3⟩
  case fixed0 | fixed2 | fixed3 => simp [controlsOf, vctxSelect, hv]
  case clear | set => simp [controlsOf, vctxSelect, hv, hbit _ hv hc]

/-- Settles O36: whether the register is present and Legal decides the trace unit's read. -/
theorem traceReadReportsOptions : Obligations.TraceReadReportsOptions := by
  intro s us ht
  rw [step_turn ht, runTurn]
  refine ⟨fun hf hl => ?legal, fun hf hl => ?illegal, fun hf => ?absent⟩
  case legal | illegal => simp [State.traceRead, traceControls, hf, hl]
  case absent => simp [State.traceRead, hf]

/-- Settles O39: the set `FULL` is well formed, and every cell of the start is Unknown. -/
theorem invariantAtReset : Obligations.InvariantAtReset where
  params := by decide
  inputs := rfl
  aligned := rfl
  unstored i _ := Vector.getElem_replicate i.isLt
  qe _ := .inl ⟨rfl, rfl⟩

/-- Settles O40, one agent's step at a time. -/
theorem invariantKeptByEveryStep : Obligations.InvariantKeptByEveryStep := by
  intro s u hi h
  cases step_next_cases h with
  | pe w ws us i _ _ _ hx =>
    have before : Inv { s with program := ws, turns := us } :=
      hi.of_params_eq rfl hi.el3_exists hi.aligned hi.cellsSound
    exact exec_keeps_inv before hx
  | extWrite a v us _ _ _ hn =>
    subst hn; exact hi.of_params_eq rfl hi.el3_exists hi.aligned (hi.cellsSound.writeValue32 v)
  | traceUnitReset us _ hn =>
    subst hn; exact hi.of_params_eq rfl hi.el3_exists hi.aligned hi.cellsSound.resetCells
  | inputs i us _ hc hn =>
    subst hn; exact hi.of_params_eq rfl (inputsConsistent_iff.mp hc) hi.aligned hi.cellsSound
  | load pc ws us _ ha hn => subst hn; exact hi.of_params_eq rfl hi.el3_exists ha hi.cellsSound
  | extRead | traceRead | setX => subst u; exact hi.of_params_eq rfl hi.el3_exists hi.aligned hi.cellsSound

end Sys2Proof.Machine

/-! Proofs of the statements of 20_memory.md: a value written through either view is read through the other, and what
the System view reads is what the External view reads, zero extended. First what a write of either view leaves for a
read, then the upper half of the register. -/

namespace Sys2Proof.Machine

open Sys2Proof

/-! ### What an external write stores -/

/-- What an admitted external write leaves. -/
theorem State.extWrite_next {s u : State} {a : ExtAccess} {v : BitVec 32} (h : s.extWrite a v = .next u) :
    u = s.setCells (writeValue32 s.params s.cells v) := by
  unfold State.extWrite at h
  split at h
  · cases h
  · split at h
    · exact (Host.Outcome.next.inj h).symm
    · cases h

/-- An external write stores a storage cell of bits [31:0] as given, the QE cells of a reserved value excepted. -/
theorem writeValue32_stores {p : Params} {v : BitVec 32} (cells : Vector Cell 64) {i : Nat} (h : i < 32)
    (hs : (storeMask p)[i] = true) (hq : i = 13 ∨ i = 14 → qeReserved p (v.setWidth 64) = false) :
    (writeValue32 p cells v)[i] = .known v[i] := by
  have hkept : ¬(qeReserved p (v.setWidth 64) && (i == 13 || i == 14)) = true := by
    simp only [Bool.and_eq_true, Bool.or_eq_true, beq_iff_eq]
    rintro ⟨hr, hi⟩
    simp [hq hi] at hr
  rw [writeValue32_getElem, if_neg hkept, if_pos (by simp [hs, h]), BitVec.getElem_setWidth,
    BitVec.getLsbD_eq_getElem h]

/-! ### What a read after an `MSR` sees -/

/-- After a completed `MSR` every implemented field is read as `X[t]` gave it, a reserved QE value excepted. -/
theorem readValue_after_msr {t : RegNum} {s u : State} (h : exec (.msrTrcconfigr t) s = .next u)
    (hd : u.outcome = some .done) {i : Nat} (hi : i < 64) (him : (implMask s.params)[i] = true)
    (hq : i = 13 ∨ i = 14 → qeReserved s.params (s.readX t) = false) (draw : Word) :
    (readValue u.params u.cells draw)[i] = (s.readX t)[i] := by
  have write := exec_msr_frame h hd
  rw [write.params, write.cells]
  exact (implemented_written_and_read_back hi him hq s.cells draw).2

/-! ### Bits [63:32] -/

section UpperHalf

variable {p : Params}

/-- No field of the layout lies in bits [63:32] (10_state.md R17). -/
theorem implMask_upper {i : Nat} (h : i < 64) (hi : 32 ≤ i) : (implMask p)[i] = false := by
  refine Bool.eq_false_iff.mpr fun him => ?_
  have hfields := (implMask_getElem_iff p ⟨i, h⟩).mp him
  simp only [Fin.ext_iff, Fin.coe_ofNat_eq_mod] at hfields
  omega

/-- With bits [63:32] hardwired no cell of them is storage. -/
theorem storeMask_upper (hw : p.resStored.extractLsb' 32 32 = 0#32) {i : Nat} (h : i < 64) (hi : 32 ≤ i) :
    (storeMask p)[i] = false := by
  have hbit : (p.resStored.extractLsb' 32 32)[i - 32]'(by omega) = false := by rw [hw, BitVec.getElem_zero]
  rw [BitVec.getElem_extractLsb', Nat.add_sub_cancel' hi, BitVec.getLsbD_eq_getElem h] at hbit
  rw [storeMask_getElem, implMask_upper h hi, hbit, Bool.or_false]

/-- With bits [63:32] hardwired they are read as 0. -/
theorem readValue_upper (hw : p.resStored.extractLsb' 32 32 = 0#32) (cells : Vector Cell 64) (draw : Word) {i : Nat}
    (h : i < 64) (hi : 32 ≤ i) : (readValue p cells draw)[i] = false := by
  have h0 : i ≠ 0 := by omega
  have h15 : i ≠ 15 := by omega
  simp [readValue_getElem, storeMask_upper hw h hi, res1Mask_getElem, h0, h15]

/-- The same of the upper half as one value. -/
theorem readValue_extract_upper (hw : p.resStored.extractLsb' 32 32 = 0#32) (cells : Vector Cell 64) (draw : Word) :
    (readValue p cells draw).extractLsb' 32 32 = 0#32 := by
  ext i hi
  rw [BitVec.getElem_extractLsb', BitVec.getLsbD_eq_getElem (by omega), BitVec.getElem_zero]
  exact readValue_upper hw cells draw _ (Nat.le_add_right 32 i)

/-- With bits [63:32] hardwired any value read is its own low half, zero extended (20_memory.md R49). -/
theorem readValue_zero_extends (hw : p.resStored.extractLsb' 32 32 = 0#32) (cells : Vector Cell 64) (draw : Word) :
    readValue p cells draw = ((readValue p cells draw).setWidth 32).setWidth 64 := by
  ext i hi
  rw [BitVec.getElem_setWidth, BitVec.getLsbD_setWidth, BitVec.getLsbD_eq_getElem hi]
  by_cases hlow : i < 32
  · rw [decide_eq_true hlow, Bool.true_and]
  · rw [decide_eq_false hlow, Bool.false_and]
    exact readValue_upper hw cells draw hi (Nat.le_of_not_lt hlow)

/-- Two reads of the same cells are equal where bits [63:32] are hardwired and no storage cell of the others is
Unknown. -/
theorem readValue_eq_of_lower_known {cells : Vector Cell 64} (hw : p.resStored.extractLsb' 32 32 = 0#32)
    (hk : ∀ i : Fin 32, (storeMask p)[i.val] = true → cells[i.val] ≠ .unknown) (draw draw' : Word) :
    readValue p cells draw = readValue p cells draw' := by
  ext i hi
  refine readValue_draws_agree draw draw' hi fun hs => ?_
  by_cases hlow : i < 32
  · exact hk ⟨i, hlow⟩ hs
  · simp [storeMask_upper hw hi (Nat.le_of_not_lt hlow)] at hs

end UpperHalf

/-! ### The statements -/

/-- Settles O23: the read is of the cells the write left, under the same parameters. -/
theorem writeThenReadReturnsValue : Obligations.WriteThenReadReturnsValue := by
  intro t t' s u v hu hud hv hvd ht' i him hq
  rw [(exec_mrs_frame hv hvd).value ht']
  exact readValue_after_msr hu hud i.isLt him (fun e => hq (e.imp Fin.ext Fin.ext)) _

/-- Settles O47, one direction at a time: each view reads the cells that the other one left. -/
theorem viewsShareOneStorage : Obligations.ViewsShareOneStorage := by
  intro s u w a t i him
  have hi : i.val < 64 := by omega
  refine ⟨fun v hu hw hwd ht hq => ?external, fun hu hud hw hq => ?system⟩
  case external =>
    obtain rfl := State.extWrite_next hu
    have hs : (storeMask s.params)[i.val] = true := storeMask_of_implMask him
    have hc := writeValue32_stores s.cells i.isLt hs fun e => hq (e.imp Fin.ext Fin.ext)
    rw [(exec_mrs_frame hw hwd).value ht]
    exact readValue_known _ hi hs hc
  case system =>
    refine ⟨_, State.extRead_data hw, ?_⟩
    rw [Fin.getElem_fin, BitVec.getElem_setWidth, BitVec.getLsbD_eq_getElem hi]
    exact readValue_after_msr hu hud hi him (fun e => hq (e.imp Fin.ext Fin.ext)) _

/-- Settles O48: both views read the same cells, each with a draw of its own. -/
theorem systemViewExtendsExternalView : Obligations.SystemViewExtendsExternalView := by
  refine ⟨fun p cells draw hw => readValue_zero_extends hw cells draw, ?_⟩
  intro s s' u w a t hp hcells hw ht hu hud hr
  have hd := State.extRead_data hr
  rw [hp, hcells] at hd
  rw [(exec_mrs_frame hu hud).value ht]
  refine ⟨_, hd, readValue_extract_upper hw _ _, fun i hk => ?bits, fun hk => ?equal⟩
  case bits =>
    have hi : i.val < 64 := by omega
    rw [Fin.getElem_fin, BitVec.getElem_setWidth, BitVec.getLsbD_eq_getElem hi]
    exact readValue_draws_agree _ _ hi hk
  case equal =>
    rw [← readValue_zero_extends hw]
    exact readValue_eq_of_lower_known hw hk _ _

end Sys2Proof.Machine

/-! Proofs of the statements of 30_encoding.md: the two words, the decoder on every word, and the stops of a PE that has
no instruction to run. First the facts about a word cut at its field `Rt`, the mask and the decoder. -/

namespace Sys2Proof

/-! ### The mask -/

/-- The mask keeps bits [31:5] and clears `Rt` (30_encoding.md R62, R63). -/
theorem append_and_matchMask (p : BitVec 27) (t : RegNum) :
    (p ++ t : InstrWord) &&& matchMask = (p ++ 0#5 : InstrWord) := by
  have hm : matchMask = (BitVec.allOnes 27 ++ 0#5 : InstrWord) := by decide
  rw [hm, BitVec.and_append, BitVec.and_allOnes, BitVec.and_zero]

/-- The words under a match value are those with its bits [31:5], whatever their `Rt`. -/
theorem and_matchMask_eq_iff {w : InstrWord} {p : BitVec 27} :
    w &&& matchMask = (p ++ 0#5 : InstrWord) ↔ (p ++ fieldRt w : InstrWord) = w := by
  have hw : (w.extractLsb' 5 27 ++ fieldRt w : InstrWord) = w := BitVec.extractLsb'_append_extractLsb'
  have hm : w &&& matchMask = (w.extractLsb' 5 27 ++ 0#5 : InstrWord) := by
    rw [← append_and_matchMask _ (fieldRt w), hw]
  calc w &&& matchMask = (p ++ 0#5 : InstrWord)
    _ ↔ (w.extractLsb' 5 27 ++ 0#5 : InstrWord) = p ++ 0#5 := by rw [hm]
    _ ↔ w.extractLsb' 5 27 = p := BitVec.append_left_inj _
    _ ↔ (w.extractLsb' 5 27 ++ fieldRt w : InstrWord) = p ++ fieldRt w := (BitVec.append_left_inj _).symm
    _ ↔ (p ++ fieldRt w : InstrWord) = w := by rw [hw, eq_comm]

/-- The words with the match value of `MRS` are the words of an `MRS` (30_encoding.md R62). -/
theorem and_matchMask_eq_mrsMatch_iff {w : InstrWord} :
    w &&& matchMask = mrsMatch ↔ encode (.mrsTrcconfigr (fieldRt w)) = w := by
  rw [encode_mrs, ← and_matchMask_eq_iff]
  rfl

/-- The words with the match value of `MSR` are the words of an `MSR` (30_encoding.md R63). -/
theorem and_matchMask_eq_msrMatch_iff {w : InstrWord} :
    w &&& matchMask = msrMatch ↔ encode (.msrTrcconfigr (fieldRt w)) = w := by
  rw [encode_msr, ← and_matchMask_eq_iff]
  rfl

/-! ### The decoder -/

/-- The field `Rt` of an instruction's word is its register number. -/
theorem fieldRt_encode (i : Instr) : fieldRt (encode i) = i.reg := by
  cases i with
  | mrsTrcconfigr t => exact (Laws.WordFields.mrsTrcconfigr t).left
  | msrTrcconfigr t => exact (Laws.WordFields.msrTrcconfigr t).left

/-- The decoder reads the word of every instruction as that instruction. -/
theorem decodeWord_encode (i : Instr) : decodeWord (encode i) = .ok i := by
  cases i with
  | mrsTrcconfigr t =>
    have hm : encode (.mrsTrcconfigr t) &&& matchMask = mrsMatch := by
      rw [and_matchMask_eq_mrsMatch_iff, fieldRt_encode, Instr.reg]
    rw [decodeWord, if_pos hm, fieldRt_encode, Instr.reg]
  | msrTrcconfigr t =>
    have hm : encode (.msrTrcconfigr t) &&& matchMask = msrMatch := by
      rw [and_matchMask_eq_msrMatch_iff, fieldRt_encode, Instr.reg]
    have hne : msrMatch ≠ mrsMatch := by decide
    rw [decodeWord, hm, if_neg hne, if_pos rfl, fieldRt_encode, Instr.reg]

/-- What the decoder answers: the instruction whose word it is given, or `NotInScope` (30_encoding.md R64). -/
theorem decodeWord_cases (w : InstrWord) :
    (∃ i, encode i = w ∧ decodeWord w = .ok i) ∨ decodeWord w = .error (.notInScope w) := by
  unfold decodeWord
  split_ifs with hmrs hmsr
  · exact .inl ⟨_, and_matchMask_eq_mrsMatch_iff.mp hmrs, rfl⟩
  · exact .inl ⟨_, and_matchMask_eq_msrMatch_iff.mp hmsr, rfl⟩
  · exact .inr rfl

/-- A word that decodes is the word of the instruction it decodes to. -/
theorem encode_eq_of_decodeWord {w : InstrWord} {i : Instr} (h : decodeWord w = .ok i) : encode i = w := by
  obtain ⟨j, hj, hd⟩ | hd := decodeWord_cases w
  · cases hd.symm.trans h
    exact hj
  · cases hd.symm.trans h

/-- A word that decodes to no instruction is `NotInScope`. -/
theorem decodeWord_notInScope {w : InstrWord} (h : ∀ i, decodeWord w ≠ .ok i) :
    decodeWord w = .error (.notInScope w) := by
  obtain ⟨i, _, hd⟩ | hd := decodeWord_cases w
  · exact absurd hd (h i)
  · exact hd

end Sys2Proof

namespace Sys2Proof.Machine

open Sys2Proof

/-! ### A PE with no instruction to run -/

/-- With no program left, the PE stops (10_state.md R42). -/
theorem peStep_ended {s : State} (hp : s.program = []) : peStep s = .fault .programEnded := by
  simp only [peStep, fetch, hp]

/-- A word that is neither instruction is refused (30_encoding.md R64). -/
theorem peStep_notInScope {s : State} {w : InstrWord} {ws : List InstrWord} (hp : s.program = w :: ws)
    (hd : ∀ i, decodeWord w ≠ .ok i) : peStep s = .refused (.notInScope w) := by
  simp only [peStep, fetch, hp, decodeWord_notInScope hd]

/-! ### The statements -/

/-- Settles O1: the word decodes to its instruction, and decoding its bytes is decoding the word. -/
theorem encodeThenDecodeGivesInstruction : Obligations.EncodeThenDecodeGivesInstruction := by
  intro i rest _
  refine ⟨decodeWord_encode i, ?_⟩
  rw [decodeBytes_wordBytes, decodeWord_encode]

/-- Settles O2: every decoding is of an instruction's word, so a word of no instruction has none. -/
theorem onlyEncodedWordsDecode : Obligations.OnlyEncodedWordsDecode := by
  refine fun w => ⟨fun _ => encode_eq_of_decodeWord, fun hne => decodeWord_notInScope fun i hd => ?_⟩
  exact hne i (encode_eq_of_decodeWord hd)

/-- Settles O3, by running the decoder on each listed word. -/
theorem listedWordsDecodeAsListed : Obligations.ListedWordsDecodeAsListed := by
  unfold Obligations.ListedWordsDecodeAsListed
  decide

/-- Settles O5: in both cases the step is the PE's, from the same program. -/
theorem stepStopsWithoutAnInstruction : Obligations.StepStopsWithoutAnInstruction := by
  intro s ht
  rw [step_pe ht]
  exact ⟨fun hp => peStep_ended hp, fun _ _ hp hd => peStep_notInScope hp hd⟩

end Sys2Proof.Machine

/-! Proofs of the statements of 40_sysreg_access.md: what the access check answers, how an instruction ends or is
refused, what each of the two leaves when it completes, and who may change a general-purpose register. First the facts
about the access check and an instruction. -/

namespace Sys2Proof.Machine

open Sys2Proof

/-! ### The access check -/

section AccessCheck

variable {k : AccessKind} {p : Params} {i : Inputs} {s : State}

/-- Without FEAT_ETE every access is Undefined (40_sysreg_access.md R74). -/
theorem State.verdict_absent (h : s.params.featETE = false) : s.verdict k = .undefined := by
  simp [State.verdict, h]

/-- At EL0 every access is Undefined (40_sysreg_access.md R78). -/
theorem State.verdict_el0 (h : s.inputs.el = .el0) : s.verdict k = .undefined := by
  unfold State.verdict
  split
  · exact accessCheck_undefined_iff.mpr (.inl h)
  · rfl

/-- The verdict depends on the direction, the parameters and the inputs only (40_sysreg_access.md R70). -/
theorem State.verdict_congr {s' : State} (hp : s.params = s'.params) (hi : s.inputs = s'.inputs) (k : AccessKind) :
    s.verdict k = s'.verdict k := by
  rw [State.verdict, State.verdict, hp, hi]

/-- The condition of R70 (b) and (i) but for the priority itself: EL1 or EL2, with the PE halted with `SDD == 1` and
`CPTR_EL3.TTA == 1`. -/
def EL3PriorityApplies (p : Params) (i : Inputs) : Prop :=
  (i.el = .el1 ∨ i.el = .el2) ∧ i.halted = true ∧ p.haveEL3 = true ∧ i.sdd = true ∧ i.ttaEL3 = true

/-- With the EL3 trap priority an access is Undefined before any lower trap is looked at. -/
theorem accessCheck_el3PrioSDD (h : EL3PriorityApplies p i) :
    accessCheck k { p with el3PrioSDD := true } i = .undefined := by
  obtain ⟨hel, hhalted, hhave, hsdd, htta⟩ := h
  have early : EarlyUndefined { p with el3PrioSDD := true } i := ⟨hhalted, hhave, hsdd, rfl, htta⟩
  obtain h1 | h2 := hel
  · exact accessCheck_undefined_iff.mpr (.inr (.inl ⟨h1, early⟩))
  · exact accessCheck_undefined_iff.mpr (.inr (.inr (.inl ⟨h2, early⟩)))

/-- The EL3 trap priority decides nothing elsewhere. -/
theorem accessCheck_el3PrioSDD_irrelevant (h : ¬EL3PriorityApplies p i) :
    accessCheck k { p with el3PrioSDD := true } i = accessCheck k { p with el3PrioSDD := false } i := by
  cases hel : i.el with
  | el0 | el3 => simp only [accessCheck, hel]
  | el1 | el2 =>
    have hno : (i.halted && p.haveEL3 && i.sdd && i.ttaEL3) = false := by
      simpa [EL3PriorityApplies, hel] using h
    simp only [accessCheck, hel, Bool.and_true, Bool.and_false, Bool.false_and, hno]

/-- Halted with `SDD == 1`, an access that EL3 claims is Undefined or trapped below EL3. -/
theorem accessCheck_halted_below_el3 (h : EL3PriorityApplies p i) :
    accessCheck k p i = .undefined ∨ accessCheck k p i = .trap .el1 ∨ accessCheck k p i = .trap .el2 := by
  obtain ⟨hel, hhalted, hhave, hsdd, htta⟩ := h
  have hclaimed : ClaimedByEL3 p i := ⟨hhave, htta⟩
  have hel3 : i.el ≠ .el3 := by obtain h | h := hel <;> simp [h]
  cases hv : accessCheck k p i with
  | undefined => exact .inl rfl
  | allow =>
    obtain ⟨_, hno⟩ | ⟨_, _, _, hno⟩ | ⟨h3, _⟩ := accessCheck_allow_iff.mp hv
    · exact absurd hclaimed hno
    · exact absurd hclaimed hno
    · exact absurd h3 hel3
  | trap l =>
    cases l with
    | el1 => exact .inr (.inl rfl)
    | el2 => exact .inr (.inr rfl)
    | el3 =>
      obtain ⟨_, _, hno⟩ | ⟨_, _, _, _, hno⟩ | ⟨h3, _⟩ := accessCheck_trap3_iff.mp hv
      · exact absurd ⟨hhalted, hsdd⟩ hno
      · exact absurd ⟨hhalted, hsdd⟩ hno
      · exact absurd h3 hel3

end AccessCheck

/-! ### How an instruction ends -/

section Ends

variable {i : Instr} {s : State}

/-- How an access that a verdict decides ends, when it is not refused (40_sysreg_access.md R71, R72). -/
def Verdict.outcome : Verdict → PEOutcome
  | .allow => .done
  | .undefined => .undefined
  | .trap l => .trap l trapCode

/-- An instruction ends as the verdict says, an allowed write only while the trace unit is Idle. -/
theorem endsWith_iff {o : PEOutcome} : EndsWith i s o ↔
    (s.verdict i.kind).outcome = o ∧ (s.verdict i.kind = .allow → i.kind = .write → s.inputs.idle = true) := by
  constructor
  · rintro ⟨u, h, ho⟩
    cases exec_next_cases h with
    | read t hi ha hn => subst hi hn; simpa [Instr.kind, ha, Verdict.outcome] using ho
    | write t hi ha hidle hn => subst hi hn; simpa [Instr.kind, ha, Verdict.outcome, hidle] using ho
    | undefined hv hn => subst hn; simpa [hv, Verdict.outcome, s.takeUndefined_frame.outcome] using ho
    | trap l hv hn => subst hn; simpa [hv, Verdict.outcome, (s.takeTrap_frame _ _ l).outcome] using ho
  · rintro ⟨rfl, hidle⟩
    cases hv : s.verdict i.kind with
    | undefined => exact ⟨_, exec_undefined hv, s.takeUndefined_frame.outcome⟩
    | trap l => exact ⟨_, exec_trap hv, (s.takeTrap_frame _ _ l).outcome⟩
    | allow =>
      cases i with
      | mrsTrcconfigr t => exact ⟨_, exec_mrs_allow hv, rfl⟩
      | msrTrcconfigr t => exact ⟨_, exec_msr_idle hv (hidle hv rfl), rfl⟩

/-- An instruction is refused exactly as an allowed write while the trace unit is not Idle (40_sysreg_access.md R73). -/
theorem exec_refused_iff {r : Refusal} : exec i s = .refused r ↔
    r = .writeNotIdle ∧ i.kind = .write ∧ s.verdict i.kind = .allow ∧ s.inputs.idle = false := by
  cases hv : s.verdict i.kind with
  | undefined => simp [exec_undefined hv]
  | trap l => simp [exec_trap hv]
  | allow =>
    cases i with
    | mrsTrcconfigr t => simp [exec_mrs_allow hv, Instr.kind]
    | msrTrcconfigr t =>
      cases hidle : s.inputs.idle <;> simp [exec_msr_allow hv, Instr.kind, hidle, eq_comm]

/-- No instruction ends in a fault. -/
theorem exec_ne_fault (f : Fault) : exec i s ≠ .fault f := by
  cases hv : s.verdict i.kind with
  | undefined => simp [exec_undefined hv]
  | trap l => simp [exec_trap hv]
  | allow =>
    cases i with
    | mrsTrcconfigr t => simp [exec_mrs_allow hv]
    | msrTrcconfigr t => rw [exec_msr_allow hv]; split <;> simp

/-- Only an `MRS` that completes changes a general-purpose register, and only the one it names. -/
theorem exec_changes_readX {u : State} {t : RegNum} (h : exec i s = .next u) (hc : u.readX t ≠ s.readX t) :
    i = .mrsTrcconfigr t ∧ s.verdict .read = .allow ∧ u.outcome = some .done := by
  cases exec_next_cases h with
  | read t' hi ha hn =>
    subst hi hn
    by_cases ht : t = t'
    · exact ⟨by rw [ht], ha, rfl⟩
    · exact absurd ((exec_mrs_frame h rfl).other t ht) hc
  | write t' _ _ _ hn => subst hn; exact absurd rfl hc
  | undefined _ hn => subst hn; exact absurd (State.readX_congr s.takeUndefined_frame.x t) hc
  | trap l _ hn => subst hn; exact absurd (State.readX_congr (s.takeTrap_frame _ _ l).x t) hc

/-- The register whose value differs is not the zero register (10_state.md R41). -/
theorem ne_zero_register_of_readX_ne {u : State} {t : RegNum} (hc : u.readX t ≠ s.readX t) : t ≠ 31#5 := by
  rintro rfl
  exact hc rfl

end Ends

/-! ### The bits read -/

/-- What `ReadValue` returns is at each position the bit that 10_state.md R36 gives. -/
theorem bitRead_readValue (p : Params) (cells : Vector Cell 64) (draw : Word) (i : Fin 64) :
    BitRead p cells draw i (readValue p cells draw)[i] := by
  simp only [BitRead, Fin.getElem_fin, readValue_getElem]
  refine ⟨fun hs b hc => ?known, fun hs hc => ?unknown, fun hs => ?reserved⟩
  case known | unknown => rw [if_pos hs, hc, cellBit]
  case reserved => rw [if_neg (Bool.eq_false_iff.mp hs)]

/-! ### The cells written -/

/-- A write leaves a cell that is not storage as it is: the QE cells, where a write can spoil them, are storage. -/
theorem writeValue_unstored {p : Params} (cells : Vector Cell 64) (v : Word) {i : Nat} (h : i < 64)
    (hs : (storeMask p)[i] = false) : (writeValue p cells v)[i] = cells[i] := by
  have hkept : ¬(qeReserved p v && (i == 13 || i == 14)) = true := by
    simp only [Bool.and_eq_true, Bool.or_eq_true, beq_iff_eq]
    rintro ⟨hr, hi⟩
    simp [storeMask_QE (qsupp_of_qeReserved hr) h hi] at hs
  rw [writeValue_getElem, if_neg hkept, if_neg (Bool.eq_false_iff.mp hs)]

/-! ### The statements -/

/-- Settles O12: what decides the ending and the refusal is the verdict and Idle. -/
theorem outcomeIgnoresRegisterAndOperand : Obligations.OutcomeIgnoresRegisterAndOperand := by
  intro i j s s' hk hp hi
  refine ⟨fun o h => ?_, fun r h => ?_⟩
  · rw [endsWith_iff] at h ⊢
    rwa [← hk, ← State.verdict_congr hp hi, ← hi]
  · rw [exec_refused_iff] at h ⊢
    rwa [← hk, ← State.verdict_congr hp hi, ← hi]

/-- Settles O14: the answers differ only where the priority applies; there true makes the access Undefined, and false
leaves a trap below EL3. -/
theorem el3PriorityMattersOnlyWhenHalted : Obligations.EL3PriorityMattersOnlyWhenHalted := by
  intro k p i hne
  by_cases h : EL3PriorityApplies p i
  · obtain ⟨_, hhalted, _, hsdd, htta⟩ := id h
    have htrue : accessCheck k { p with el3PrioSDD := true } i = .undefined := accessCheck_el3PrioSDD h
    have hfalse := (accessCheck_halted_below_el3 (k := k) (p := { p with el3PrioSDD := false }) h).resolve_left
      fun hu => hne (htrue.trans hu.symm)
    exact ⟨hhalted, hsdd, htta, htrue, hfalse⟩
  · exact absurd (accessCheck_el3PrioSDD_irrelevant h) hne

/-- Settles O16: the verdict is Allow, and the value read is the register bit by bit. -/
theorem mrsCompletes : Obligations.MrsCompletes := by
  intro t s hete hallow
  have hx := exec_mrs_allow (t := t) (State.verdict_allow_iff.mpr ⟨hete, hallow⟩)
  have frame := exec_mrs_frame hx rfl
  refine ⟨_, hx, fun ht i => ?bits, fun ht => ?zero, frame.other, rfl, rfl, rfl, rfl, rfl, rfl, rfl, rfl, rfl, rfl⟩
  case bits =>
    rw [frame.value ht]
    exact bitRead_readValue _ _ _ i
  case zero =>
    subst ht
    rw [State.writeX_zero, State.finish_x, State.drawn_x]

/-- Settles O17: the verdict is Allow, and the cells are those of `WriteValue`. -/
theorem msrCompletes : Obligations.MsrCompletes := by
  intro t s hete hallow hidle
  have hx := exec_msr_idle (t := t) (State.verdict_allow_iff.mpr ⟨hete, hallow⟩) hidle
  refine ⟨_, hx, ?_⟩
  rw [(exec_msr_frame hx rfl).cells]
  refine ⟨fun i hs => ?unstored, fun i hs ⟨h13, h14⟩ => ?stored, fun hr => ?spoiled, fun i hs hr => ?allStored,
    rfl, rfl, rfl, rfl, rfl, rfl, rfl, rfl, rfl, rfl⟩
  case unstored => exact writeValue_unstored _ _ i.isLt hs
  case stored => exact writeValue_stores _ i.isLt hs fun e => (e.elim (h13 <| Fin.ext ·) (h14 <| Fin.ext ·)).elim
  case spoiled => exact ⟨writeValue_spoils _ _ (.inl rfl) hr, writeValue_spoils _ _ (.inr rfl) hr⟩
  case allStored => exact writeValue_stores _ i.isLt hs fun _ => hr

/-- Settles O18: no fault, and the one refusal with its conditions. -/
theorem onlyWritesWhileNotIdleAreRefused : Obligations.OnlyWritesWhileNotIdleAreRefused := by
  intro i s
  refine ⟨exec_ne_fault, fun r => ?_⟩
  rw [exec_refused_iff, State.verdict_allow_iff]
  constructor
  · rintro ⟨hr, hk, ⟨hete, hallow⟩, hidle⟩
    exact ⟨hr, hk, hete, hk ▸ hallow, hidle⟩
  · rintro ⟨hr, hk, hete, hallow, hidle⟩
    exact ⟨hr, hk, ⟨hete, hk ▸ hallow⟩, hidle⟩

/-- Settles O42: of the steps only an `MRS` that completes and the turn of an instruction outside the spec write X. -/
theorem onlyReadersChangeX : Obligations.OnlyReadersChangeX := by
  intro s u t h hc
  have ht := ne_zero_register_of_readX_ne hc
  cases step_next_cases h with
  | pe w ws us i hm hp hdec hx =>
    obtain ⟨rfl, hv, hd⟩ := exec_changes_readX hx hc
    obtain ⟨hete, hallow⟩ := State.verdict_allow_iff.mp hv
    exact .inl ⟨w, ws, hp, hdec, hm.first, ht, hete, hallow, hd⟩
  | setX t' v us hturn hn =>
    by_cases he : t = t'
    · exact .inr ⟨v, us, he ▸ hturn, ht⟩
    · subst hn
      exact absurd (State.readX_writeX_other _ v he) hc
  | extRead | extWrite | traceUnitReset | traceRead | inputs | load =>
    subst u; exact absurd (State.readX_congr (by rfl) t) hc

/-- Settles O11: without FEAT_ETE the verdict is Undefined under every input. -/
theorem absentRegisterIsUndefined : Obligations.AbsentRegisterIsUndefined :=
  fun _ _ h _ => endsWith_undefined_iff_verdict.mpr (State.verdict_absent h)

/-- Settles O13: at EL0 the verdict is Undefined, and that fault's frame is the rest. -/
theorem el0NeverCompletes : Obligations.EL0NeverCompletes := by
  intro i s h
  have frame := s.takeUndefined_frame
  exact ⟨_, exec_undefined (State.verdict_el0 h), frame.outcome, frame.cells, frame.x, frame.program⟩

end Sys2Proof.Machine

/-! Proofs of the statements of 41_external_access.md: when an external access is refused, what an admitted one leaves,
and what an external write keeps. First the three answers of an external turn, then the cells that a write keeps. -/

namespace Sys2Proof.Machine

open Sys2Proof

/-! ### The turns of the external debugger -/

section ExternalTurns

variable {s : State} {a : ExtAccess} {us : List Turn}

/-- An absent register or an access that is not allowed is refused whatever its shape (41_external_access.md R79). -/
theorem extRefusal_of_absent_or_not_ok {p : Params} (h : p.featETE = false ∨ a.ok = false) :
    extRefusal p a = some .extAccess := by
  rw [extRefusal, if_pos]
  simpa using h

/-- An allowed access of any other shape is refused for its shape (20_memory.md R52). -/
theorem extRefusal_of_other_shape {p : Params} (hete : p.featETE = true) (hok : a.ok = true)
    (h : a.bits ≠ 32 ∨ a.addr ≠ extAddress p) : extRefusal p a = some .extShape := by
  have hshape : extShapeOk p a = false := by simpa [extShapeOk, Classical.or_iff_not_imp_left] using h.symm
  simp [extRefusal, hete, hok, hshape]

/-- A read and a write that are not admitted are refused for the same reason. -/
theorem step_ext_refused {v : BitVec 32} {u : Turn} {r : Refusal} (ht : s.turns = u :: us)
    (hu : u = .extRead a ∨ u = .extWrite a v) (hr : extRefusal s.params a = some r) : step s = .refused r := by
  rw [step_turn ht]
  obtain rfl | rfl := hu
  · simp only [runTurn, State.extRead, hr]
  · simp only [runTurn, State.extWrite, hr]

/-- An admitted read, whether or not the trace unit is Idle (41_external_access.md R80). -/
theorem step_extRead_admitted (ht : s.turns = .extRead a :: us) (ha : extRefusal s.params a = none) :
    step s = .next { s with
      turns := us, extData := some (s.trcValue.setWidth 32), draws := s.draws + 1 } := by
  rw [step_turn ht]
  simp only [runTurn, State.extRead, ha, State.drawn, State.trcValue]

/-- An admitted write is done while the trace unit is Idle and refused otherwise (41_external_access.md R81, R82). -/
theorem step_extWrite_admitted {v : BitVec 32} (ht : s.turns = .extWrite a v :: us)
    (ha : extRefusal s.params a = none) :
    step s = if s.inputs.idle then .next { s with turns := us, cells := writeValue32 s.params s.cells v }
      else .refused .writeNotIdle := by
  rw [step_turn ht]
  simp only [runTurn, State.extWrite, ha, State.setCells]

end ExternalTurns

/-! ### The cells after an external write -/

section ExternalWrite

variable {p : Params} {v : BitVec 32}

/-- An external write keeps cells [63:32] and every cell that is not storage: the QE cells, where a write can spoil
them, are neither. -/
theorem writeValue32_keeps (cells : Vector Cell 64) {i : Nat} (h : i < 64)
    (hi : 32 ≤ i ∨ (storeMask p)[i] = false) : (writeValue32 p cells v)[i] = cells[i] := by
  have hqe : ¬(qeReserved p (v.setWidth 64) && (i == 13 || i == 14)) = true := by
    simp only [Bool.and_eq_true, Bool.or_eq_true, beq_iff_eq]
    rintro ⟨hr, hq⟩
    have hs := storeMask_QE (qsupp_of_qeReserved hr) h hq
    obtain hup | hno := hi
    · omega
    · simp [hno] at hs
  have hlane : ¬((storeMask p)[i] && decide (i < 32)) = true := by
    simpa [Classical.or_iff_not_imp_right] using hi
  rw [writeValue32_getElem, if_neg hqe, if_neg hlane]

/-- An external write of a reserved QE value leaves the QE cells Unknown (41_external_access.md R83; D8). -/
theorem writeValue32_spoils (cells : Vector Cell 64) {i : Nat} (h : i < 64) (hi : i = 13 ∨ i = 14)
    (hr : qeReserved p (v.setWidth 64) = true) : (writeValue32 p cells v)[i] = .unknown := by
  rw [writeValue32_getElem, if_pos]
  simpa [hr] using hi

end ExternalWrite

/-! ### The statements -/

/-- Settles O44: the read is admitted, and each bit returned is that bit of the value read. -/
theorem externalReadCompletes : Obligations.ExternalReadCompletes := by
  intro s a us ht hete hok hbits haddr
  have hx := step_extRead_admitted ht (extRefusal_none_iff.mpr ⟨hete, hok, haddr, hbits⟩)
  refine ⟨_, _, hx, rfl, fun i => ?bits, rfl⟩
  have hi : i.val < 64 := by omega
  rw [Fin.getElem_fin, BitVec.getElem_setWidth, BitVec.getLsbD_eq_getElem hi]
  exact bitRead_readValue _ _ _ (i.castLE (by decide))

/-- Settles O45: the write is admitted and done, and the cells are those of `WriteValue32`. -/
theorem externalWriteCompletes : Obligations.ExternalWriteCompletes := by
  intro s a v us ht hete hok hbits haddr hidle
  have hx := step_extWrite_admitted ht (extRefusal_none_iff.mpr ⟨hete, hok, haddr, hbits⟩)
  rw [if_pos hidle] at hx
  refine ⟨_, hx, fun i hi => ?kept, fun i hs ⟨h13, h14⟩ => ?stored, fun hr => ?spoiled, fun i hs hr => ?allStored,
    rfl⟩
  case kept => exact writeValue32_keeps _ i.isLt hi
  case stored => exact writeValue32_stores _ i.isLt hs fun e => (e.elim (h13 <| Fin.ext ·) (h14 <| Fin.ext ·)).elim
  case spoiled => exact ⟨writeValue32_spoils _ _ (.inl rfl) hr, writeValue32_spoils _ _ (.inr rfl) hr⟩
  case allStored => exact writeValue32_stores _ i.isLt hs fun _ => hr

/-- Settles O46: the first two cases are of an access that is not admitted, the third of an admitted write. -/
theorem externalAccessRefusals : Obligations.ExternalAccessRefusals := by
  intro s a v us u ht hu
  refine ⟨fun h => ?access, fun hete hok h => ?shape, fun hete hok hbits haddr hw hidle => ?notIdle⟩
  case access => exact step_ext_refused ht hu (extRefusal_of_absent_or_not_ok h)
  case shape => exact step_ext_refused ht hu (extRefusal_of_other_shape hete hok h)
  case notIdle =>
    subst hw
    rw [step_extWrite_admitted ht (extRefusal_none_iff.mpr ⟨hete, hok, haddr, hbits⟩), hidle,
      if_neg Bool.false_ne_true]

end Sys2Proof.Machine

/-! Proofs of the statements of 60_exceptions.md: which outcome each point of the access check gives, what an
instruction that does not complete leaves alone and does not learn, what exception entry records while not halted, and
that a trap by TTA repeats in its handler. First the facts about the verdict, about exception entry, about a denied
access and about an access that is repeated. -/

namespace Sys2Proof.Machine

open Sys2Proof

/-! ### The verdict -/

section Verdict

variable {k : AccessKind} {s : State}

/-- Where the register is present the access check decides (40_sysreg_access.md R74). -/
theorem State.verdict_present (h : s.params.featETE = true) : s.verdict k = accessCheck k s.params s.inputs := by
  rw [State.verdict, if_pos h]

/-- The verdict is Undefined where the register is absent or the access check says so. -/
theorem State.verdict_undefined_iff :
    s.verdict k = .undefined ↔ s.params.featETE = false ∨ accessCheck k s.params s.inputs = .undefined := by
  cases hete : s.params.featETE with
  | false => simp [State.verdict_absent hete]
  | true => simp [State.verdict_present hete]

/-- Only the access check of a register that is present answers a trap. -/
theorem State.verdict_trap_iff {l : ExcLevel} :
    s.verdict k = .trap l ↔ s.params.featETE = true ∧ accessCheck k s.params s.inputs = .trap l := by
  cases hete : s.params.featETE with
  | false => simp [State.verdict_absent hete]
  | true => simp [State.verdict_present hete]

end Verdict

/-! ### Exception entry while not halted -/

section Entry

variable {i : Instr} {s : State}

/-- Entry writes the syndrome and the instruction's own address at the level it is taken to. -/
@[simp] theorem State.enter_bank_same (s : State) (o : PEOutcome) (l : ExcLevel) (y : BitVec 32) :
    bankOf (s.enter o l y).exc l = ⟨y, s.pc⟩ := by
  rw [State.enter_exc, bankOf_setBank_same]

/-- Entry leaves the registers of the other levels. -/
theorem State.enter_bank_other (s : State) (o : PEOutcome) (y : BitVec 32) {l l' : ExcLevel} (h : l' ≠ l) :
    bankOf (s.enter o l y).exc l' = bankOf s.exc l' := by
  rw [State.enter_exc, bankOf_setBank_other _ _ h]

/-- While not halted, a trapped instruction enters the level of its trap. -/
theorem exec_trap_running {l : ExcLevel} (hh : s.inputs.halted = false) (hv : s.verdict i.kind = .trap l) :
    exec i s = .next (s.enter (.trap l trapCode) l (trapSyndrome i.kind i.reg)) := by
  rw [exec_trap hv, State.takeTrap_running hh]

/-- While not halted, an Undefined instruction enters the target of 60_exceptions.md R90. -/
theorem exec_undefined_running (hh : s.inputs.halted = false) (hv : s.verdict i.kind = .undefined) :
    exec i s = .next (s.enter .undefined (undefinedTarget s.inputs) (undefinedSyndrome s.draws)) := by
  rw [exec_undefined hv, State.takeUndefined_running hh]

/-- From EL0, an Undefined exception is taken to EL2 where that is enabled and configured, and else to EL1. -/
theorem undefinedTarget_el0 {j : Inputs} (h : j.el = .el0) :
    undefinedTarget j = if j.el2Enabled = true ∧ j.el0ToEL2 = true then .el2 else .el1 := by
  simp [undefinedTarget, h]

/-- From any level but EL0, an Undefined exception is taken to that level. -/
theorem undefinedTarget_toEL {j : Inputs} (h : j.el ≠ .el0) : (undefinedTarget j).toEL = j.el := by
  cases hel : j.el with
  | el0 => exact absurd hel h
  | el1 | el2 | el3 => simp only [undefinedTarget, hel, ExcLevel.toEL]

/-- The exception class of an Undefined exception is 0x00, whatever the free bits below it. -/
theorem undefinedSyndrome_class (n : Nat) : (undefinedSyndrome n).extractLsb' 26 6 = 0x00#6 := by
  unfold undefinedSyndrome
  generalize Config.freeIss n = iss
  exact BitVec.extractLsb'_append_eq_left

end Entry

/-! ### A denied access and TRCCONFIGR -/

section Denied

variable (s : State) (cells : Vector Cell 64)

/-- Taking an Undefined exception neither reads nor writes the register. -/
theorem State.takeUndefined_setCells : (s.setCells cells).takeUndefined = s.takeUndefined.setCells cells := by
  cases hh : s.inputs.halted <;> simp only [State.takeUndefined, State.setCells_inputs, hh] <;> rfl

/-- Taking a trap neither reads nor writes the register. -/
theorem State.takeTrap_setCells (k : AccessKind) (t : RegNum) (l : ExcLevel) :
    (s.setCells cells).takeTrap k t l = (s.takeTrap k t l).setCells cells := by
  cases hh : s.inputs.halted <;> simp only [State.takeTrap, State.setCells_inputs, hh] <;> rfl

/-- The verdict reads nothing of the register (40_sysreg_access.md R70). -/
theorem State.verdict_setCells (k : AccessKind) : (s.setCells cells).verdict k = s.verdict k :=
  State.verdict_congr (s.setCells_params cells) (s.setCells_inputs cells) k

end Denied

/-! ### The access repeated by the handler -/

section Handler

variable {k : AccessKind} {p : Params} {j : Inputs}

/-- The early Undefined of R70 (b) and (i) is of a PE that is halted. -/
theorem not_earlyUndefined (h : j.halted = false) : ¬EarlyUndefined p j := by
  rintro ⟨hhalted, _⟩
  simp [h] at hhalted

/-- A trap to EL2 other than the fine-grained trap (e) is by `CPTR_EL2.TTA` (60_exceptions.md R87). -/
theorem ttaEL2_of_accessCheck_trap2 (h : accessCheck k p j = .trap .el2) (he : ¬PointE k p j) : j.ttaEL2 = true := by
  obtain ⟨_, _, _, _, htta⟩ | hE | ⟨_, _, htta⟩ := accessCheck_trap2_iff.mp h
  · exact htta
  · exact absurd hE he
  · exact htta

/-- A trap to EL3 is by `CPTR_EL3.TTA` (60_exceptions.md R88). -/
theorem ttaEL3_of_accessCheck_trap3 (h : accessCheck k p j = .trap .el3) : j.ttaEL3 = true := by
  obtain ⟨_, ⟨_, htta⟩, _⟩ | ⟨_, _, _, ⟨_, htta⟩, _⟩ | ⟨_, htta⟩ := accessCheck_trap3_iff.mp h
  all_goals exact htta

/-- At the level a trap by TTA was taken to, the access traps to that level: the points (c), (j) and (n). -/
theorem accessCheck_trap_repeats {l : ExcLevel} (hh : j.halted = false) (h : accessCheck k p j = .trap l)
    (he : ¬PointE k p j) : accessCheck k p (withLevel j l.toEL) = .trap l := by
  have hno : ¬EarlyUndefined p (withLevel j l.toEL) := not_earlyUndefined hh
  cases l with
  | el1 =>
    obtain ⟨_, _, htta⟩ := accessCheck_trap1_iff.mp h
    exact accessCheck_trap1_iff.mpr ⟨rfl, fun ⟨_, hearly⟩ => hno hearly, htta⟩
  | el2 =>
    have htta : j.ttaEL2 = true := ttaEL2_of_accessCheck_trap2 h he
    exact accessCheck_trap2_iff.mpr (.inr (.inr ⟨rfl, fun ⟨_, hearly⟩ => hno hearly, htta⟩))
  | el3 =>
    have htta : j.ttaEL3 = true := ttaEL3_of_accessCheck_trap3 h
    exact accessCheck_trap3_iff.mpr (.inr (.inr ⟨rfl, htta⟩))

end Handler

/-! ### The statements -/

/-- Settles O7: the ending is the verdict's, and the points are those where the access check says Undefined. -/
theorem undefinedExactlyWhen : Obligations.UndefinedExactlyWhen := by
  intro i s
  rw [endsWith_undefined_iff_verdict, State.verdict_undefined_iff, accessCheck_undefined_iff]

/-- Settles O8: with the register present the ending is the access check's trap to EL1. -/
theorem trapToEL1ExactlyWhen : Obligations.TrapToEL1ExactlyWhen := by
  intro i s hete
  rw [endsWith_trap_iff_verdict, State.verdict_present hete, accessCheck_trap1_iff]

/-- Settles O9: with the register present the ending is the access check's trap to EL2. -/
theorem trapToEL2ExactlyWhen : Obligations.TrapToEL2ExactlyWhen := by
  intro i s hete
  rw [endsWith_trap_iff_verdict, State.verdict_present hete, accessCheck_trap2_iff]

/-- Settles O10: with the register present the ending is the access check's trap to EL3. -/
theorem trapToEL3ExactlyWhen : Obligations.TrapToEL3ExactlyWhen := by
  intro i s hete
  rw [endsWith_trap_iff_verdict, State.verdict_present hete, accessCheck_trap3_iff]

/-- Settles O15: the entry changes the level alone of what the access check reads, and there the check traps again. -/
theorem handlerTrapsAgain : Obligations.HandlerTrapsAgain := by
  intro i s u l hh hx ho he
  have hv : s.verdict i.kind = .trap l := endsWith_trap_iff_verdict.mp ⟨u, hx, ho⟩
  obtain ⟨hete, hcheck⟩ := State.verdict_trap_iff.mp hv
  cases hx.symm.trans (exec_trap_running hh hv)
  exact endsWith_trap_iff_verdict.mpr (State.verdict_trap_iff.mpr ⟨hete, accessCheck_trap_repeats hh hcheck he⟩)

/-- Settles O19: this is the frame of a fault, halted or not. -/
theorem faultsArePrecise : Obligations.FaultsArePrecise := by
  intro i s u hx hd
  obtain ⟨_, frame⟩ := exec_fault_frame hx hd
  exact ⟨frame.cells, frame.x, frame.params, frame.inputs, frame.program, frame.turns, frame.extData,
    frame.controls⟩

/-- Settles O20: over other contents the verdict is the same, and so is the fault that it takes. -/
theorem deniedAccessLearnsNothing : Obligations.DeniedAccessLearnsNothing := by
  intro i s u cells hx hd
  change exec i (s.setCells cells) = .next (u.setCells cells)
  cases exec_next_cases hx with
  | read _ _ _ hn => subst hn; exact absurd rfl hd
  | write _ _ _ _ hn => subst hn; exact absurd rfl hd
  | undefined hv hn => rw [exec_undefined ((s.verdict_setCells cells _).trans hv), s.takeUndefined_setCells, hn]
  | trap l hv hn => rw [exec_trap ((s.verdict_setCells cells _).trans hv), s.takeTrap_setCells, hn]

/-- Settles O21: the trap is entered at its level, with its syndrome as one number. -/
theorem trapEntryRecordsSyndrome : Obligations.TrapEntryRecordsSyndrome := by
  intro i s l hh hend
  refine ⟨_, exec_trap_running hh (endsWith_trap_iff_verdict.mp hend), ?syndrome, ?returnAddr, rfl, rfl,
    fun _ hne => s.enter_bank_other _ _ hne⟩
  case syndrome => rw [State.enter_bank_same, trapSyndrome_eq]
  case returnAddr => rw [State.enter_bank_same]

/-- Settles O22: the exception is entered at its target, which is EL1 or EL2 from EL0 and else the level itself. -/
theorem undefinedEntryTargets : Obligations.UndefinedEntryTargets := by
  intro i s hh hend
  refine ⟨_, undefinedTarget s.inputs, exec_undefined_running hh (endsWith_undefined_iff_verdict.mp hend),
    fun hel hto => ?toEL2, fun hel hto => ?toEL1, undefinedTarget_toEL, ?syndrome, ?returnAddr, rfl, rfl,
    fun _ hne => s.enter_bank_other _ _ hne⟩
  case toEL2 => rw [undefinedTarget_el0 hel, if_pos hto]
  case toEL1 => rw [undefinedTarget_el0 hel, if_neg hto]
  case syndrome => rw [State.enter_bank_same, undefinedSyndrome_class]
  case returnAddr => rw [State.enter_bank_same]

end Sys2Proof.Machine

/-! Proofs of the statements of 70_reset_and_hazards.md: a later write against an earlier one, the Trace unit reset and
the start of a run. First what of the cells a write reads, then what an implemented field says of Legal where every
storage cell is Unknown, and the step of the reset. -/

namespace Sys2Proof.Machine

open Sys2Proof

/-! ### What of the cells a write reads -/

/-- A write of the whole register reads nothing of the storage cells: it overwrites every one. -/
theorem writeValue_congr {p : Params} {cells cells' : Vector Cell 64} (v : Word)
    (h : ∀ (i : Nat) (hi : i < 64), (storeMask p)[i] = false → cells[i] = cells'[i]) :
    writeValue p cells v = writeValue p cells' v := by
  ext i hi
  rw [writeValue_getElem, writeValue_getElem]
  cases hs : (storeMask p)[i] with
  | true => rfl
  | false => rw [h i hi hs]

/-! ### Every storage cell Unknown -/

/-- A mask that is not 0 has a bit set. -/
theorem exists_getElem_of_ne_zero {m : Word} (hm : m ≠ 0#64) : ∃ i : Fin 64, m[i] = true := by
  by_contra hnone
  push Not at hnone
  refine hm (BitVec.eq_of_getElem_eq fun i hi => ?_)
  rw [BitVec.getElem_zero]
  exact Bool.eq_false_iff.mpr (hnone ⟨i, hi⟩)

/-- With every storage cell Unknown the register is not Legal where any field is implemented (10_state.md R38
clause (a)). -/
theorem legal_false_of_stored_unknown {p : Params} {cells : Vector Cell 64} (hm : implMask p ≠ 0#64)
    (hu : ∀ i : Fin 64, (storeMask p)[i] = true → cells[i] = .unknown) : legal p cells = false := by
  obtain ⟨i, hi⟩ := exists_getElem_of_ne_zero hm
  exact legal_false_of_unknown i hi (hu i (storeMask_of_implMask hi))

/-- A Trace unit reset leaves every storage cell Unknown. -/
theorem resetCells_stored {p : Params} (cells : Vector Cell 64) {i : Nat} (h : i < 64)
    (hs : (storeMask p)[i] = true) : (resetCells p cells)[i] = .unknown := by
  rw [resetCells_getElem, if_pos hs]

/-- A Trace unit reset leaves a cell that is not storage as it is. -/
theorem resetCells_unstored {p : Params} (cells : Vector Cell 64) {i : Nat} (h : i < 64)
    (hs : (storeMask p)[i] = false) : (resetCells p cells)[i] = cells[i] := by
  rw [resetCells_getElem, if_neg (Bool.eq_false_iff.mp hs)]

/-- The step of a Trace unit reset, which no condition stops. -/
theorem step_traceUnitReset {s : State} {us : List Turn} (ht : s.turns = .traceUnitReset :: us) :
    step s = .next { s with turns := us, cells := resetCells s.params s.cells } := by
  rw [step_turn ht, runTurn, State.traceUnitReset, State.setCells]

/-- A run starts with every cell Unknown. -/
theorem State.initial_cell (p : Params) (inp : Inputs) {i : Nat} (h : i < 64) :
    (State.initial p inp).cells[i] = .unknown := by
  simp [State.initial]

/-! ### The statements -/

/-- Settles O26: the earlier write, of either view, kept the cells that are not storage, and the later one reads no
others. -/
theorem laterWriteOverwritesEarlier : Obligations.LaterWriteOverwritesEarlier := by
  intro p cells v w w32
  exact ⟨writeValue_congr v fun _ hi hs => writeValue_unstored cells w hi hs,
    writeValue_congr v fun _ hi hs => writeValue32_keeps cells hi (.inr hs)⟩

/-- Settles O37: the step is the reset's, and its cells are those of `resetCells`. -/
theorem traceUnitResetForgetsStoredCells : Obligations.TraceUnitResetForgetsStoredCells := by
  intro s us ht
  have hunknown : ∀ i : Fin 64, (storeMask s.params)[i] = true → (resetCells s.params s.cells)[i] = .unknown :=
    fun i hs => resetCells_stored s.cells i.isLt hs
  exact ⟨_, step_traceUnitReset ht, hunknown, fun i hs => resetCells_unstored s.cells i.isLt hs,
    fun hm => legal_false_of_stored_unknown hm hunknown, rfl⟩

/-- Settles O38: every cell is Unknown at the start, storage or not, and reset is the start of a run. -/
theorem runStartsUnknown : Obligations.RunStartsUnknown := by
  intro p inp
  have hunknown : ∀ i : Fin 64, (storeMask p)[i] = true → (State.initial p inp).cells[i] = .unknown :=
    fun i _ => State.initial_cell p inp i.isLt
  exact ⟨hunknown, fun hm => legal_false_of_stored_unknown hm hunknown, rfl⟩

end Sys2Proof.Machine
